-- ==== Sys2Proof/Word.lean ====
section
/-! DEFINITION. The widths of the core's values (spec/00_scope.md R8, R14): every stored value is unsigned. -/

namespace Sys2Proof

/-- A memory byte, a general register, a timer or an immediate byte `kk` (R8). -/
abbrev Byte := BitVec 8

/-- A 16-bit value: an opcode, `I`, `PC`, `IR` or a return address (R8). -/
abbrev Word := BitVec 16

/-- A nibble of an opcode (R14). -/
abbrev Nibble := BitVec 4

/-- The address field `nnn` of an opcode, `op[11:0]` (spec/30_encoding.md R71). -/
abbrev Addr12 := BitVec 12

/-- The number of a general register, `0x0`..`0xF` (spec/10_state.md R22). -/
abbrev RegIdx := Fin 16

/-- A key code, `0x0`..`0xF` (spec/10_state.md R35). -/
abbrev KeyCode := Fin 16

/-- Bytes of memory: addresses `0x000`..`0xFFF` (R8, spec/10_state.md R38). -/
abbrev memSize : Nat := 4096

/-- Where a program image is loaded, and the reset value of `PC` (R8). -/
abbrev progBase : Nat := 0x200

/-- Cells of the framebuffer, 64 columns by 32 rows (R8). -/
abbrev fbCells : Nat := 2048

end Sys2Proof
end

