-- ==== Sys2Proof/Config.lean ====
section
/-! DEFINITION. The parameters of the core (spec/00_scope.md R9 to R12), and the one free value, the random byte of `RND`
(spec/42_alu.md R152). Their defaults are in Machine/Defaults.lean. -/

namespace Sys2Proof

/-- What `SHL` writes to `VF` (R12, decision D7). -/
inductive ShlVfMode where
  | raw          -- `Vy & 0x80`
  | normalised   -- `(Vy >> 7) & 1`
deriving DecidableEq, Repr

/-- Which of the two writes of spec/42_alu.md R138 comes last (R12, decision D8). -/
inductive VfWriteOrder where
  | flagLast
  | resultLast
deriving DecidableEq, Repr

/-- What `0nnn` does when it is neither `00E0` nor `00EE` (R12, decision D10). -/
inductive SysPolicy where
  | fault
  | nop
deriving DecidableEq, Repr

/-- The implementation parameters of the core (R9 to R12).
DESIGN CHOICE (log entry 1, safe): one value of this type is carried in State, and nothing changes it. -/
structure Params where
  /-- `STACK_LIMIT`: the most return addresses the stack holds; `none` is "unbounded" (R11). -/
  stackLimit : Option Nat
  shlVfMode : ShlVfMode
  vfWriteOrder : VfWriteOrder
  sysPolicy : SysPolicy
  /-- `FONT_BASE`: the address of glyph 0 (R9). -/
  fontBase : Word
  /-- `FONT_DATA`: 16 glyphs of 5 bytes (R8, R10). -/
  fontData : Vector (Vector Byte 5) 16
deriving DecidableEq, Repr

/-- The 80 font bytes lie inside memory (R9: "reserved region"; DEDUCED, log entry 1). -/
abbrev Params.Wf (p : Params) : Prop := p.fontBase.toNat + 80 ≤ memSize

/-- The byte that the `k`-th `RND` of a run draws: "a fresh value in `0..255` in each step that executes `RND`", with
no law at all (spec/42_alu.md R152, decision D25). It has no body, so no proof can know a value of it. The counter it
is applied to is `State.draws` (DESIGN CHOICE, log entry 2, safe). -/
opaque Config.randomByte : Nat → Byte

end Sys2Proof
end

