-- ==== Sys2Proof/Syntax.lean ====
section
/-! DEFINITION. The 35 instructions (spec/30_encoding.md R74), one constructor per row of spec/opcode_table.json, in
the table's order. Operand fields as in R71 and R73: `nnn` 12 bits, `x` and `y` register numbers, `kk` a byte, `n` a row
count `0..15`. -/

namespace Sys2Proof

/-- An instruction of R74. -/
inductive Instr where
  | sys (nnn : Addr12)                -- `0nnn`  SYS nnn (neither 00E0 nor 00EE)
  | cls                               -- `00E0`  CLS
  | ret                               -- `00EE`  RET
  | jp (nnn : Addr12)                 -- `1nnn`  JP nnn
  | call (nnn : Addr12)               -- `2nnn`  CALL nnn
  | seKk (x : RegIdx) (kk : Byte)     -- `3xkk`  SE Vx, kk
  | sneKk (x : RegIdx) (kk : Byte)    -- `4xkk`  SNE Vx, kk
  | seVy (x y : RegIdx)               -- `5xy0`  SE Vx, Vy
  | ldKk (x : RegIdx) (kk : Byte)     -- `6xkk`  LD Vx, kk
  | addKk (x : RegIdx) (kk : Byte)    -- `7xkk`  ADD Vx, kk
  | ldVy (x y : RegIdx)               -- `8xy0`  LD Vx, Vy
  | orVy (x y : RegIdx)               -- `8xy1`  OR Vx, Vy
  | andVy (x y : RegIdx)              -- `8xy2`  AND Vx, Vy
  | xorVy (x y : RegIdx)              -- `8xy3`  XOR Vx, Vy
  | addVy (x y : RegIdx)              -- `8xy4`  ADD Vx, Vy
  | subVy (x y : RegIdx)              -- `8xy5`  SUB Vx, Vy
  | shrVy (x y : RegIdx)              -- `8xy6`  SHR Vx, Vy
  | subnVy (x y : RegIdx)             -- `8xy7`  SUBN Vx, Vy
  | shlVy (x y : RegIdx)              -- `8xyE`  SHL Vx, Vy
  | sneVy (x y : RegIdx)              -- `9xy0`  SNE Vx, Vy
  | ldI (nnn : Addr12)                -- `Annn`  LD I, nnn
  | jpV0 (nnn : Addr12)               -- `Bnnn`  JP V0, nnn
  | rnd (x : RegIdx) (kk : Byte)      -- `Cxkk`  RND Vx, kk
  | drw (x y : RegIdx) (n : Fin 16)   -- `Dxyn`  DRW Vx, Vy, n
  | skp (x : RegIdx)                  -- `Ex9E`  SKP Vx
  | sknp (x : RegIdx)                 -- `ExA1`  SKNP Vx
  | ldVxDt (x : RegIdx)               -- `Fx07`  LD Vx, DT
  | ldVxK (x : RegIdx)                -- `Fx0A`  LD Vx, K
  | ldDtVx (x : RegIdx)               -- `Fx15`  LD DT, Vx
  | ldStVx (x : RegIdx)               -- `Fx18`  LD ST, Vx
  | addIVx (x : RegIdx)               -- `Fx1E`  ADD I, Vx
  | ldFVx (x : RegIdx)                -- `Fx29`  LD F, Vx
  | ldBVx (x : RegIdx)                -- `Fx33`  LD B, Vx
  | ldMemVx (x : RegIdx)              -- `Fx55`  LD [I], Vx
  | ldVxMem (x : RegIdx)              -- `Fx65`  LD Vx, [I]
deriving DecidableEq, Repr

end Sys2Proof
end

