-- ==== Sys2Proof/WellFormed.lean ====
section
/-! DEFINITION. The one check on an instruction that its field types do not make: `SYS nnn` has no form for the two
words that are `CLS` and `RET` (spec/30_encoding.md R74 row 1, R77; spec/41_control_flow.md R120). -/

namespace Sys2Proof

/-- `i` is an instruction that some opcode of R74 stands for. Every field of every other instruction takes all the values its
type has (R75). -/
def Instr.wellFormed : Instr → Bool
  | .sys nnn => nnn != 0x0E0 && nnn != 0x0EE
  | .cls | .ret | .jp _ | .call _ | .seKk _ _ | .sneKk _ _ | .seVy _ _ | .ldKk _ _ | .addKk _ _
  | .ldVy _ _ | .orVy _ _ | .andVy _ _ | .xorVy _ _ | .addVy _ _ | .subVy _ _ | .shrVy _ _ | .subnVy _ _
  | .shlVy _ _ | .sneVy _ _ | .ldI _ | .jpV0 _ | .rnd _ _ | .drw _ _ _ | .skp _ | .sknp _ | .ldVxDt _
  | .ldVxK _ | .ldDtVx _ | .ldStVx _ | .addIVx _ | .ldFVx _ | .ldBVx _ | .ldMemVx _ | .ldVxMem _ => true

end Sys2Proof
end

