-- ==== Sys2Proof/Decode.lean ====
section
/-! DEFINITION. The decoder of spec/30_encoding.md R70 to R80, total on any bytes, and the encoder written from the same
formats (R72) and opcode map (R74). Only the field extractors read bits of an opcode. -/

namespace Sys2Proof

/-! ## Fields of an opcode (R14, R71) -/

/-- `nA = op[15:12]`, the major opcode. -/
def nA (op : Word) : Nibble := op.extractLsb' 12 4

/-- `x = op[11:8]`, a register number. -/
def fieldX (op : Word) : RegIdx := (op.extractLsb' 8 4).toFin

/-- `y = op[7:4]`, a register number. -/
def fieldY (op : Word) : RegIdx := (op.extractLsb' 4 4).toFin

/-- `nD = op[3:0]`, the sub-opcode of the register ops. -/
def nD (op : Word) : Nibble := op.extractLsb' 0 4

/-- `n = op[3:0]`, a row count. -/
def fieldN (op : Word) : Fin 16 := (nD op).toFin

/-- `kk = op[7:0]`, the immediate byte. -/
def fieldKk (op : Word) : Byte := op.extractLsb' 0 8

/-- `nnn = op[11:0]`, an address. -/
def fieldNnn (op : Word) : Addr12 := op.extractLsb' 0 12

/-! ## The decoder (R76, R77) -/

/-- Why bytes are no instruction. -/
inductive Reject where
  /-- The opcode matches no row of R74 (R77, R78): the machine takes the `UnknownOpcode` error. -/
  | unknownOpcode (op : Word)
  /-- Fewer than the two bytes of an opcode (R70). The machine never raises it: its fetch reads two bytes or faults. -/
  | tooFewBytes
deriving DecidableEq, Repr

/-- The register ops, major opcode 8 (R75, R77). -/
def decodeRegOp (op : Word) : Except Reject Instr :=
  match nD op with
  | 0x0#4 => .ok (.ldVy (fieldX op) (fieldY op))
  | 0x1#4 => .ok (.orVy (fieldX op) (fieldY op))
  | 0x2#4 => .ok (.andVy (fieldX op) (fieldY op))
  | 0x3#4 => .ok (.xorVy (fieldX op) (fieldY op))
  | 0x4#4 => .ok (.addVy (fieldX op) (fieldY op))
  | 0x5#4 => .ok (.subVy (fieldX op) (fieldY op))
  | 0x6#4 => .ok (.shrVy (fieldX op) (fieldY op))
  | 0x7#4 => .ok (.subnVy (fieldX op) (fieldY op))
  | 0xE#4 => .ok (.shlVy (fieldX op) (fieldY op))
  | _ => .error (.unknownOpcode op)

/-- The key skips, major opcode E (R75, R77). -/
def decodeKeyOp (op : Word) : Except Reject Instr :=
  match fieldKk op with
  | 0x9E#8 => .ok (.skp (fieldX op))
  | 0xA1#8 => .ok (.sknp (fieldX op))
  | _ => .error (.unknownOpcode op)

/-- The sub-opcodes of major opcode F (R75, R77). -/
def decodeMiscOp (op : Word) : Except Reject Instr :=
  match fieldKk op with
  | 0x07#8 => .ok (.ldVxDt (fieldX op))
  | 0x0A#8 => .ok (.ldVxK (fieldX op))
  | 0x15#8 => .ok (.ldDtVx (fieldX op))
  | 0x18#8 => .ok (.ldStVx (fieldX op))
  | 0x1E#8 => .ok (.addIVx (fieldX op))
  | 0x29#8 => .ok (.ldFVx (fieldX op))
  | 0x33#8 => .ok (.ldBVx (fieldX op))
  | 0x55#8 => .ok (.ldMemVx (fieldX op))
  | 0x65#8 => .ok (.ldVxMem (fieldX op))
  | _ => .error (.unknownOpcode op)

/-- An opcode of major opcode 0 other than `00E0` and `00EE`: SYS, if the policy has it (R77, R79). -/
def decodeSys (policy : SysPolicy) (op : Word) : Except Reject Instr :=
  match policy with
  | .nop => .ok (.sys (fieldNnn op))
  | .fault => .error (.unknownOpcode op)

/-- The decoder of R77: strict matching, `00E0` and `00EE` first. -/
def decode (policy : SysPolicy) (op : Word) : Except Reject Instr :=
  if op = 0x00E0#16 then .ok .cls
  else if op = 0x00EE#16 then .ok .ret
  else match nA op with
    | 0x0#4 => decodeSys policy op
    | 0x1#4 => .ok (.jp (fieldNnn op))
    | 0x2#4 => .ok (.call (fieldNnn op))
    | 0x3#4 => .ok (.seKk (fieldX op) (fieldKk op))
    | 0x4#4 => .ok (.sneKk (fieldX op) (fieldKk op))
    | 0x5#4 => if nD op = 0 then .ok (.seVy (fieldX op) (fieldY op)) else .error (.unknownOpcode op)
    | 0x6#4 => .ok (.ldKk (fieldX op) (fieldKk op))
    | 0x7#4 => .ok (.addKk (fieldX op) (fieldKk op))
    | 0x8#4 => decodeRegOp op
    | 0x9#4 => if nD op = 0 then .ok (.sneVy (fieldX op) (fieldY op)) else .error (.unknownOpcode op)
    | 0xA#4 => .ok (.ldI (fieldNnn op))
    | 0xB#4 => .ok (.jpV0 (fieldNnn op))
    | 0xC#4 => .ok (.rnd (fieldX op) (fieldKk op))
    | 0xD#4 => .ok (.drw (fieldX op) (fieldY op) (fieldN op))
    | 0xE#4 => decodeKeyOp op
    | _ => decodeMiscOp op    -- `0xF`, the one nibble left

/-- The opcode of two bytes, big-endian: the first byte is the high one (R70, spec/20_memory.md R52). -/
def opcodeOfBytes (hi lo : Byte) : Word := hi ++ lo

/-- The first instruction of a list of bytes, and the bytes after it (R70: always two). -/
def decodeBytes (policy : SysPolicy) : List Byte → Except Reject (Instr × List Byte)
  | hi :: lo :: rest => (decode policy (opcodeOfBytes hi lo)).map (·, rest)
  | _ => .error .tooFewBytes

/-! ## The encoder (R72, R74) -/

/-- `a ∥ b`, the byte of two nibbles (R14). -/
def byteOfNibbles (a b : Nibble) : Byte := a ++ b

/-- A register number or a row count as its nibble. -/
def nibbleOf (x : Fin 16) : Nibble := BitVec.ofFin x

/-- Format A: `op ∥ nnn`. -/
def encodeA (op : Nibble) (nnn : Addr12) : Word := op ++ nnn

/-- Formats XK and X: `op ∥ x ∥ kk` (format X has a fixed low byte). -/
def encodeXK (op : Nibble) (x : RegIdx) (kk : Byte) : Word := opcodeOfBytes (byteOfNibbles op (nibbleOf x)) kk

/-- Formats XY and XYN: `op ∥ x ∥ y ∥ n` (format XY has a fixed sub-opcode). -/
def encodeXYN (op : Nibble) (x y : RegIdx) (n : Nibble) : Word := encodeXK op x (byteOfNibbles (nibbleOf y) n)

/-- The opcode of an instruction, from its row of R74. -/
def encode : Instr → Word
  | .sys nnn => encodeA 0x0 nnn
  | .cls => 0x00E0
  | .ret => 0x00EE
  | .jp nnn => encodeA 0x1 nnn
  | .call nnn => encodeA 0x2 nnn
  | .seKk x kk => encodeXK 0x3 x kk
  | .sneKk x kk => encodeXK 0x4 x kk
  | .seVy x y => encodeXYN 0x5 x y 0x0
  | .ldKk x kk => encodeXK 0x6 x kk
  | .addKk x kk => encodeXK 0x7 x kk
  | .ldVy x y => encodeXYN 0x8 x y 0x0
  | .orVy x y => encodeXYN 0x8 x y 0x1
  | .andVy x y => encodeXYN 0x8 x y 0x2
  | .xorVy x y => encodeXYN 0x8 x y 0x3
  | .addVy x y => encodeXYN 0x8 x y 0x4
  | .subVy x y => encodeXYN 0x8 x y 0x5
  | .shrVy x y => encodeXYN 0x8 x y 0x6
  | .subnVy x y => encodeXYN 0x8 x y 0x7
  | .shlVy x y => encodeXYN 0x8 x y 0xE
  | .sneVy x y => encodeXYN 0x9 x y 0x0
  | .ldI nnn => encodeA 0xA nnn
  | .jpV0 nnn => encodeA 0xB nnn
  | .rnd x kk => encodeXK 0xC x kk
  | .drw x y n => encodeXYN 0xD x y (nibbleOf n)
  | .skp x => encodeXK 0xE x 0x9E
  | .sknp x => encodeXK 0xE x 0xA1
  | .ldVxDt x => encodeXK 0xF x 0x07
  | .ldVxK x => encodeXK 0xF x 0x0A
  | .ldDtVx x => encodeXK 0xF x 0x15
  | .ldStVx x => encodeXK 0xF x 0x18
  | .addIVx x => encodeXK 0xF x 0x1E
  | .ldFVx x => encodeXK 0xF x 0x29
  | .ldBVx x => encodeXK 0xF x 0x33
  | .ldMemVx x => encodeXK 0xF x 0x55
  | .ldVxMem x => encodeXK 0xF x 0x65

/-- The two bytes of an opcode as memory holds them, the high one first (spec/20_memory.md R52). -/
def bytesOfOpcode (op : Word) : List Byte := [op.extractLsb' 8 8, op.extractLsb' 0 8]

/-! ## The opcode map as rows (R74, spec/opcode_table.json) -/

/-- A row of the opcode map: the fixed bits of its pattern. -/
structure Row where
  /-- The bits that are fixed. -/
  mask : Word
  /-- Their values; 0 where a bit is not fixed. -/
  pattern : Word
deriving DecidableEq, Repr

/-- "An opcode matches a row iff every fixed nibble of the row's pattern equals the opcode's nibble in that position" (R77). -/
abbrev Row.Matches (r : Row) (op : Word) : Prop := op &&& r.mask = r.pattern

/-- The row of each instruction, with the table's mask and match. -/
def Instr.row : Instr → Row
  | .sys _ => ⟨0xF000, 0x0000⟩
  | .cls => ⟨0xFFFF, 0x00E0⟩
  | .ret => ⟨0xFFFF, 0x00EE⟩
  | .jp _ => ⟨0xF000, 0x1000⟩
  | .call _ => ⟨0xF000, 0x2000⟩
  | .seKk _ _ => ⟨0xF000, 0x3000⟩
  | .sneKk _ _ => ⟨0xF000, 0x4000⟩
  | .seVy _ _ => ⟨0xF00F, 0x5000⟩
  | .ldKk _ _ => ⟨0xF000, 0x6000⟩
  | .addKk _ _ => ⟨0xF000, 0x7000⟩
  | .ldVy _ _ => ⟨0xF00F, 0x8000⟩
  | .orVy _ _ => ⟨0xF00F, 0x8001⟩
  | .andVy _ _ => ⟨0xF00F, 0x8002⟩
  | .xorVy _ _ => ⟨0xF00F, 0x8003⟩
  | .addVy _ _ => ⟨0xF00F, 0x8004⟩
  | .subVy _ _ => ⟨0xF00F, 0x8005⟩
  | .shrVy _ _ => ⟨0xF00F, 0x8006⟩
  | .subnVy _ _ => ⟨0xF00F, 0x8007⟩
  | .shlVy _ _ => ⟨0xF00F, 0x800E⟩
  | .sneVy _ _ => ⟨0xF00F, 0x9000⟩
  | .ldI _ => ⟨0xF000, 0xA000⟩
  | .jpV0 _ => ⟨0xF000, 0xB000⟩
  | .rnd _ _ => ⟨0xF000, 0xC000⟩
  | .drw _ _ _ => ⟨0xF000, 0xD000⟩
  | .skp _ => ⟨0xF0FF, 0xE09E⟩
  | .sknp _ => ⟨0xF0FF, 0xE0A1⟩
  | .ldVxDt _ => ⟨0xF0FF, 0xF007⟩
  | .ldVxK _ => ⟨0xF0FF, 0xF00A⟩
  | .ldDtVx _ => ⟨0xF0FF, 0xF015⟩
  | .ldStVx _ => ⟨0xF0FF, 0xF018⟩
  | .addIVx _ => ⟨0xF0FF, 0xF01E⟩
  | .ldFVx _ => ⟨0xF0FF, 0xF029⟩
  | .ldBVx _ => ⟨0xF0FF, 0xF033⟩
  | .ldMemVx _ => ⟨0xF0FF, 0xF055⟩
  | .ldVxMem _ => ⟨0xF0FF, 0xF065⟩

/-! ## The host's reading of a table row -/

/-- The opcode that a row's `nbits` bits `w` stand for; an opcode is one 16-bit word, so bit 0 of `w` is its bit 0. -/
def tableOpcode (nbits w : Nat) : Word := BitVec.ofNat 16 (w % 2 ^ nbits)

/-- The instruction the decoder reads from a table row's word, laid out as memory holds it. The decoder is the one with
every row of R74, SYS too (`SYS_POLICY = nop`); log entry 4. -/
def decodeTableWord (nbits w : Nat) : Option Instr :=
  match decodeBytes .nop (bytesOfOpcode (tableOpcode nbits w)) with
  | .ok (i, _) => some i
  | .error _ => none

end Sys2Proof
end

