-- ==== Sys2Proof/Machine/State.lean ====
section
/-! DEFINITION. The state of the core: the 14 items of spec/10_state.md R20, and two fields of the model's own (the
parameters and the counter of random draws). All of it is plain data. -/

namespace Sys2Proof.Machine

/-- The four error kinds (spec/60_exceptions.md R230). -/
inductive FaultKind where
  | unknownOpcode
  | memoryFault
  | stackUnderflow
  | stackOverflow
deriving DecidableEq, Repr

/-- The code R230 gives each kind (decision D20). -/
def FaultKind.code : FaultKind → Nat
  | .unknownOpcode => 1
  | .memoryFault => 2
  | .stackUnderflow => 3
  | .stackOverflow => 4

/-- What a fault records (R230). -/
structure FaultRecord where
  kind : FaultKind
  /-- The address of the instruction, or of the fetch, that faulted. -/
  pc : Word
  /-- The fetched opcode; none if the fetch itself faulted. -/
  opcode : Option Word
  /-- The offending address of a `MemoryFault`; none for the other kinds. -/
  addr : Option Word
deriving DecidableEq, Repr

/-- Memory `M` (spec/10_state.md R38): the cells that differ from their reset contents, addresses strictly rising.
Machine/Memory.lean has its form, its reads and its writes. -/
abbrev Memory := List Host.Cell

/-- The framebuffer `FB` (spec/10_state.md R33): 32 rows of 64 one-bit cells. The cell of column `c` and row `r`, number
`r * 64 + c`, is bit `c` of row `r`. -/
abbrev Framebuffer := Vector (BitVec 64) 32

/-- The state of the core (R20). -/
structure State where
  /-- `V[0..15]`, the general registers (R22). -/
  v : Vector Byte 16
  /-- `I`, the index register (R26). -/
  i : Word
  /-- `PC`, the program counter (R27). -/
  pc : Word
  /-- `STACK`, the call stack, top at the end (R30). -/
  stack : List Word
  /-- `DT`, the delay timer (R32). -/
  dt : Byte
  /-- `ST`, the sound timer (R32). -/
  st : Byte
  /-- `M`, memory (R38). -/
  mem : Memory
  /-- `FB`, the framebuffer (R33). -/
  fb : Framebuffer
  /-- `DRAW`, the draw flag (R34). -/
  draw : Bool
  /-- `KEY[0..15]`, the pressed state of the keys (R35). -/
  key : Vector Bool 16
  /-- `KEYLATCH`, the key-down event since the previous step (R36). -/
  keyLatch : Option KeyCode
  /-- `WAIT`, the AwaitingKey state: the register of the waiting `Fx0A` (R39). -/
  wait : Option RegIdx
  /-- `IR`, the current opcode (R29). -/
  ir : Word
  /-- `FAULT`, the error that ended the run (R40). -/
  fault : Option FaultRecord
  /-- The model's own: the implementation parameters (R21: no state of the core; log entry 1). Nothing changes it. -/
  params : Params
  /-- The model's own: how many random bytes `RND` has drawn, the argument of `Config.randomByte` (log entry 2). -/
  draws : Nat
deriving DecidableEq, Repr

/-- The state after `reset` of a core with the parameters `p` (R47, spec/70_reset_and_hazards.md R260). Memory lists
nothing: every address reads as its reset contents, the font or 0. `draws` is the model's (DESIGN CHOICE 0, log
entry 2). -/
def State.resetWith (p : Params) : State where
  v := Vector.replicate 16 0
  i := 0
  pc := 0x200
  stack := []
  dt := 0
  st := 0
  mem := []
  fb := Vector.replicate 32 0
  draw := false
  key := Vector.replicate 16 false
  keyLatch := none
  wait := none
  ir := 0
  fault := none
  params := p
  draws := 0

/-- The machine right after reset, with the default parameters of spec/00_scope.md R9 to R12. -/
def State.reset : State := State.resetWith Params.default

/-- Why a step gives no next state. -/
inductive Fault where
  /-- Raised by `step` alone, in a state whose `FAULT` is set: "`step` returns the same `Fault(FAULT)` and changes
  nothing" (spec/60_exceptions.md R236, spec/40_cycle.md R100). Safe: the run is over in the spec too. The step that
  RAISES an error is a next state, with the error recorded in it (log entry 3). -/
  | runOver (r : FaultRecord)
deriving DecidableEq, Repr

/-- Why the model has no meaning for an instruction. -/
inductive Refusal where
  /-- Raised by an arm of `exec` whose instruction has no meaning yet; no arm does. Safe: the model stops. -/
  | notModelled (mnemonic : String)
deriving DecidableEq, Repr

/-- How a step or an instruction ends. -/
abbrev Result := Host.Outcome State Fault Refusal

end Sys2Proof.Machine
end

