-- ==== Sys2Proof/Machine/Memory.lean ====
section
/-! DEFINITION. Memory `M` as a canonical list of cells: what an unlisted address reads as, the canonical form, reads and
writes of one byte (spec/10_state.md R37, R38, R47; spec/20_memory.md R57, R58). -/

namespace Sys2Proof.Machine.Memory

/-- What an unlisted address reads as: the reset contents of R47, the font at `FONT_BASE` and 0 elsewhere. -/
def initial (p : Params) (a : Nat) : Byte :=
  if h : p.fontBase.toNat ≤ a ∧ a < p.fontBase.toNat + 80 then
    (p.fontData[(a - p.fontBase.toNat) / 5]'(by omega))[(a - p.fontBase.toNat) % 5]'(by omega)
  else 0

/-- The canonical form: addresses strictly rising and inside memory, no cell equal to its reset contents. -/
abbrev wf (p : Params) (m : Memory) : Prop :=
  m.Pairwise (fun c d => c.1 < d.1) ∧ ∀ c ∈ m, c.1 < memSize ∧ c.2 ≠ initial p c.1

/-- The byte listed for the address `a`, if one is. -/
def listed : Memory → Nat → Option Byte
  | [], _ => none
  | (k, w) :: m, a => if a = k then some w else listed m a

/-- `M[a]`. -/
def read (p : Params) (m : Memory) (a : Nat) : Byte := (listed m a).getD (initial p a)

/-- `m` without a cell for the address `a`. -/
def remove (m : Memory) (a : Nat) : Memory := m.filter (fun c => c.1 != a)

/-- `m` with the cell `(a, b)` at its place in the order, in place of any cell for `a`. -/
def insert : Memory → Nat → Byte → Memory
  | [], a, b => [(a, b)]
  | (k, w) :: m, a, b =>
    if a < k then (a, b) :: (k, w) :: m
    else if a = k then (a, b) :: m
    else (k, w) :: insert m a b

/-- `M[a] <- b`, keeping the canonical form: writing the reset contents removes the cell. -/
def write (p : Params) (m : Memory) (a : Nat) (b : Byte) : Memory :=
  if b = initial p a then remove m a else insert m a b

end Sys2Proof.Machine.Memory
end

