-- ==== Sys2Proof/Machine/Ops.lean ====
section
/-! DEFINITION. The named operations over the state (spec/00_scope.md R16): registers, memory bytes, the call stack, the
framebuffer, the next-PC outcomes of spec/40_cycle.md R104, and raising an error (R106). -/

namespace Sys2Proof.Machine

namespace State

/-! ## Registers -/

/-- `V[x]`. -/
def getV (s : State) (x : RegIdx) : Byte := s.v[x]

/-- `V[x] <- b`. No register is hardwired (spec/10_state.md R22). -/
def setV (s : State) (x : RegIdx) (b : Byte) : State := { s with v := s.v.set x b }

/-- `I <- w`. -/
def setI (s : State) (w : Word) : State := { s with i := w }

/-- `PC <- w`. -/
def setPc (s : State) (w : Word) : State := { s with pc := w }

/-- `STACK <- l`. -/
def setStack (s : State) (l : List Word) : State := { s with stack := l }

/-- `DT <- b`. -/
def setDt (s : State) (b : Byte) : State := { s with dt := b }

/-- `ST <- b`. -/
def setSt (s : State) (b : Byte) : State := { s with st := b }

/-- A new memory. -/
def setMem (s : State) (m : Memory) : State := { s with mem := m }

/-- A new framebuffer. -/
def setFb (s : State) (f : Framebuffer) : State := { s with fb := f }

/-- `DRAW <- d`. -/
def setDraw (s : State) (d : Bool) : State := { s with draw := d }

/-- New key state. -/
def setKey (s : State) (k : Vector Bool 16) : State := { s with key := k }

/-- `KEYLATCH <- k`. -/
def setKeyLatch (s : State) (k : Option KeyCode) : State := { s with keyLatch := k }

/-- `WAIT <- w`. -/
def setWait (s : State) (w : Option RegIdx) : State := { s with wait := w }

/-- `IR <- w`. -/
def setIr (s : State) (w : Word) : State := { s with ir := w }

/-- `FAULT <- r`. -/
def setFault (s : State) (r : Option FaultRecord) : State := { s with fault := r }

/-- One more random byte drawn (the model's own counter). -/
def countDraw (s : State) : State := { s with draws := s.draws + 1 }

/-- `SP`, the length of the stack (R20). -/
def sp (s : State) : Nat := s.stack.length

/-! ## Memory bytes -/

/-- `M[a]`. -/
def readByte (s : State) (a : Nat) : Byte := Memory.read s.params s.mem a

/-- `M[a] <- b`. -/
def writeByte (s : State) (a : Nat) (b : Byte) : State := s.setMem (Memory.write s.params s.mem a b)

/-- The `n` bytes `M[a], M[a+1], ...`. -/
def readBytes (s : State) (a n : Nat) : List Byte := (List.range n).map fun k => s.readByte (a + k)

/-- `M[a + k] <- bs[k]` for every `k`, at rising addresses. -/
def writeBytes (s : State) (a : Nat) : List Byte → State
  | [] => s
  | b :: bs => (s.writeByte a b).writeBytes (a + 1) bs

/-! ## Call stack (spec/10_state.md R30, R31) -/

/-- The stack can take no more entries: `STACK_LIMIT` is not unbounded and `SP` has reached it. -/
def stackFull (s : State) : Bool :=
  match s.params.stackLimit with
  | none => false
  | some n => n ≤ s.sp

/-- `Push(w)` on a stack that is not full. -/
def push (s : State) (w : Word) : State := s.setStack (s.stack ++ [w])

/-- `Pop()`: the top entry and the state without it; none if the stack is empty. -/
def pop (s : State) : Option (Word × State) :=
  match s.stack.getLast? with
  | none => none
  | some w => some (w, s.setStack s.stack.dropLast)

end State

/-! ## Framebuffer (spec/10_state.md R33, spec/20_memory.md R65) -/

/-- `FB[c]`. There is no cell past number 2047; no caller asks for one. -/
def Framebuffer.cell (f : Framebuffer) (c : Nat) : Bool :=
  if h : c / 64 < 32 then f[c / 64].getLsbD (c % 64) else false

/-- `FB[c] <- FB[c] ^ 1`. -/
def Framebuffer.flip (f : Framebuffer) (c : Nat) : Framebuffer :=
  if h : c / 64 < 32 then f.set (c / 64) (f[c / 64] ^^^ BitVec.twoPow 64 (c % 64)) else f

/-- Every cell 0. -/
def Framebuffer.clear : Framebuffer := Vector.replicate 32 0

/-! ## The next-PC outcomes (spec/40_cycle.md R104) -/

/-- What an instruction's rule ends with. -/
inductive NextPc where
  | advance
  | skip
  | goto (t : Word)
  | hold
deriving DecidableEq, Repr

/-- The new `PC` of an outcome, `PC` being the address of the instruction. -/
def State.applyNextPc (s : State) : NextPc → State
  | .advance => s.setPc (s.pc + 2)
  | .skip => s.setPc (s.pc + 4)
  | .goto t => s.setPc t
  | .hold => s

/-- An instruction that raised nothing: its writes are in `s`, its outcome is `o`. -/
def complete (o : NextPc) (s : State) : Result := .next (s.applyNextPc o)

/-! ## Taking an error (spec/40_cycle.md R106, spec/60_exceptions.md R230 to R237)

There is no handler, no vector and no mode (R236), so an error has one effect: `FAULT` takes its record, and of the
instruction's own writes none is kept, since the error is recorded in the state from before them. Nothing returns from
an error (R237): only `reset` leaves the faulted state. -/

/-- `FAULT <- (kind, PC, opcode, addr)`. -/
def State.recordFault (s : State) (kind : FaultKind) (opcode addr : Option Word) : State :=
  s.setFault (some ⟨kind, s.pc, opcode, addr⟩)

/-- Raise an error in the decode or execute stage; `s` is the state before the instruction, and its `IR` the fetched
opcode. A NEXT state (log entry 3). -/
def raise (kind : FaultKind) (addr : Option Word) (s : State) : Result :=
  .next (s.recordFault kind (some s.ir) addr)

end Sys2Proof.Machine
end

