-- ==== Sys2Proof/Machine/Flags.lean ====
section
/-! DEFINITION. The flag values written to `VF` (spec/10_state.md R24) and the two writes of spec/42_alu.md R138. -/

namespace Sys2Proof.Machine

/-- The flag register `VF`. -/
abbrev regF : RegIdx := 0xF

/-- `bool01`: 1 if `c`, else 0 (spec/00_scope.md R15). -/
def bool01 (c : Bool) : Byte := if c then 1 else 0

/-- The carry of `a + b`: 1 iff the raw sum exceeds 255 (R145). -/
def carryFlag (a b : Byte) : Byte := bool01 (a.toNat + b.toNat > 255)

/-- The no-borrow flag of `a - b`: 0 iff the raw difference is negative (R146, R148). -/
def noBorrowFlag (a b : Byte) : Byte := bool01 (a.toNat ≥ b.toNat)

/-- The bit `SHR` shifts out (R147). -/
def shrFlag (b : Byte) : Byte := b &&& 1

/-- The bit `SHL` shifts out, as `SHL_VF_MODE` has it (R149). -/
def shlFlag (mode : ShlVfMode) (b : Byte) : Byte :=
  match mode with
  | .raw => b &&& 0x80
  | .normalised => (b >>> 7) &&& 1

/-- The collision flag of `DRW` (spec/44_display.md R193). -/
def collisionFlag (coll : Bool) : Byte := bool01 coll

/-- Write a result to `V[x]` and a flag to `VF`, in the order of `VF_WRITE_ORDER` (R138). -/
def State.setResultAndFlag (s : State) (x : RegIdx) (res flag : Byte) : State :=
  match s.params.vfWriteOrder with
  | .flagLast => (s.setV x res).setV regF flag
  | .resultLast => (s.setV regF flag).setV x res

end Sys2Proof.Machine
end

