-- ==== Sys2Proof/Machine/Operands.lean ====
section
/-! DEFINITION. The operand forms: addresses in `nnn`, the memory range at `I` with its check (spec/20_memory.md R54), the
key that a register names, the glyph that a register names, the registers `V0..Vx`, and the fetch of an opcode. -/

namespace Sys2Proof.Machine

/-- `zext_16(nnn)` (spec/30_encoding.md R73). -/
def addrOf (nnn : Addr12) : Word := nnn.setWidth 16

/-- A register's value as a 16-bit number; nothing is sign-extended (spec/00_scope.md R14). -/
def zext16 (b : Byte) : Word := b.setWidth 16

/-- The `n` bytes at `a` all lie in memory: no byte at all, or the last address is at most `0xFFF` (R54). -/
def rangeFits (a n : Nat) : Bool := n == 0 || a + n - 1 ≤ 0xFFF

/-- The lowest address of a range that starts at `a` and passes `0xFFF`, as an error reports it (R54: `max(a, 0x1000)`). -/
def firstBadAddr (a : Word) : Word := if a.toNat ≤ 0xFFF then 0x1000 else a

/-- An instruction's access to the `n` bytes at `I`: the check for the whole range comes first, and an access that
fails it raises `MemoryFault` and does nothing else (R54, R55). -/
def accessAtI (n : Nat) (s : State) (whenInRange : Result) : Result :=
  if rangeFits s.i.toNat n then whenInRange else raise .memoryFault (some (firstBadAddr s.i)) s

/-- The opcode at `PC`, big-endian; none if its two bytes do not both lie in memory (spec/40_cycle.md R101,
spec/20_memory.md R52). -/
def State.fetch (s : State) : Option Word :=
  if s.pc.toNat + 1 > 0xFFF then none
  else some (opcodeOfBytes (s.readByte s.pc.toNat) (s.readByte (s.pc.toNat + 1)))

/-- The key whose code is `b` is pressed; a `b` above `0xF` names no key and is not pressed
(spec/45_input_timers.md R210, decision D14). -/
def State.keyPressed (s : State) (b : Byte) : Bool :=
  if h : b.toNat < 16 then s.key[b.toNat] else false

/-- The address of the glyph of the low nibble of `b`: `FONT_BASE + 5 * (b & 0xF)` (spec/43_index_memory.md R172). -/
def glyphAddr (p : Params) (b : Byte) : Word := p.fontBase + 5 * zext16 (b &&& 0x0F)

/-- `(I + b) & 0xFFF` (spec/43_index_memory.md R171). -/
def indexSum (i : Word) (b : Byte) : Word := (i + zext16 b) &&& 0x0FFF

/-- The registers `0..x`, rising. -/
def regsUpTo (x : RegIdx) : List RegIdx := (List.finRange 16).filter (· ≤ x)

/-- The three decimal digits of `b`: hundreds, tens, ones (spec/43_index_memory.md R173). -/
def bcdDigits (b : Byte) : List Byte := [b / 100, b / 10 % 10, b % 10]

/-- A skip: over the next instruction if `c` holds, else on to it (spec/40_cycle.md R104). -/
def skipIf (c : Bool) (s : State) : Result := complete (if c then .skip else .advance) s

end Sys2Proof.Machine
end

