-- ==== Sys2Proof/Machine/Alu.lean ====
section
/-! DEFINITION. Loads of a register, the register ops and RND (spec/42_alu.md). All of them advance and raise nothing. -/

namespace Sys2Proof.Machine

/-- `LD Vx, kk` (R139). -/
def execLdKk (x : RegIdx) (kk : Byte) (s : State) : Result := complete .advance (s.setV x kk)

/-- `ADD Vx, kk` (R140): no flag. -/
def execAddKk (x : RegIdx) (kk : Byte) (s : State) : Result := complete .advance (s.setV x (s.getV x + kk))

/-- `LD Vx, Vy` (R141). -/
def execLdVy (x y : RegIdx) (s : State) : Result := complete .advance (s.setV x (s.getV y))

/-- `OR Vx, Vy` (R142). -/
def execOrVy (x y : RegIdx) (s : State) : Result := complete .advance (s.setV x (s.getV x ||| s.getV y))

/-- `AND Vx, Vy` (R143). -/
def execAndVy (x y : RegIdx) (s : State) : Result := complete .advance (s.setV x (s.getV x &&& s.getV y))

/-- `XOR Vx, Vy` (R144). -/
def execXorVy (x y : RegIdx) (s : State) : Result := complete .advance (s.setV x (s.getV x ^^^ s.getV y))

/-- `ADD Vx, Vy` (R145). -/
def execAddVy (x y : RegIdx) (s : State) : Result :=
  complete .advance (s.setResultAndFlag x (s.getV x + s.getV y) (carryFlag (s.getV x) (s.getV y)))

/-- `SUB Vx, Vy` (R146). -/
def execSubVy (x y : RegIdx) (s : State) : Result :=
  complete .advance (s.setResultAndFlag x (s.getV x - s.getV y) (noBorrowFlag (s.getV x) (s.getV y)))

/-- `SHR Vx, Vy` (R147): the operand is `Vy`. -/
def execShrVy (x y : RegIdx) (s : State) : Result :=
  complete .advance (s.setResultAndFlag x (s.getV y >>> 1) (shrFlag (s.getV y)))

/-- `SUBN Vx, Vy` (R148). -/
def execSubnVy (x y : RegIdx) (s : State) : Result :=
  complete .advance (s.setResultAndFlag x (s.getV y - s.getV x) (noBorrowFlag (s.getV y) (s.getV x)))

/-- `SHL Vx, Vy` (R149): the operand is `Vy`. -/
def execShlVy (x y : RegIdx) (s : State) : Result :=
  complete .advance (s.setResultAndFlag x (s.getV y <<< 1) (shlFlag s.params.shlVfMode (s.getV y)))

/-- `RND Vx, kk` (R152): a fresh random byte, a free value, under the mask. -/
def execRnd (x : RegIdx) (kk : Byte) (s : State) : Result :=
  complete .advance (s.countDraw.setV x (Config.randomByte s.draws &&& kk))

end Sys2Proof.Machine
end

