-- ==== Sys2Proof/Machine/ControlFlow.lean ====
section
/-! DEFINITION. SYS, RET, CALL, JP, the skips on registers and immediates, JP V0 (spec/41_control_flow.md). -/

namespace Sys2Proof.Machine

/-- `SYS nnn` (R120). Under `SYS_POLICY = nop` it only advances. Under `fault` the decoder never yields it; asked for
all the same, it is the `UnknownOpcode` error that the decoder raises for its word (log entry 4). -/
def execSys (_nnn : Addr12) (s : State) : Result :=
  match s.params.sysPolicy with
  | .nop => complete .advance s
  | .fault => raise .unknownOpcode none s

/-- `RET` (R122): `Goto` the popped address, or `StackUnderflow`. -/
def execRet (s : State) : Result :=
  match s.pop with
  | none => raise .stackUnderflow none s
  | some (t, s') => complete (.goto t) s'

/-- `CALL nnn` (R123, decision D6): push the address after the call, or `StackOverflow`. -/
def execCall (nnn : Addr12) (s : State) : Result :=
  if s.stackFull then raise .stackOverflow none s
  else complete (.goto (addrOf nnn)) (s.push (s.pc + 2))

/-- `JP nnn` (R124). -/
def execJp (nnn : Addr12) (s : State) : Result := complete (.goto (addrOf nnn)) s

/-- `SE Vx, kk` (R126). -/
def execSeKk (x : RegIdx) (kk : Byte) (s : State) : Result := skipIf (s.getV x == kk) s

/-- `SNE Vx, kk` (R127). -/
def execSneKk (x : RegIdx) (kk : Byte) (s : State) : Result := skipIf (s.getV x != kk) s

/-- `SE Vx, Vy` (R128). -/
def execSeVy (x y : RegIdx) (s : State) : Result := skipIf (s.getV x == s.getV y) s

/-- `SNE Vx, Vy` (R129). -/
def execSneVy (x y : RegIdx) (s : State) : Result := skipIf (s.getV x != s.getV y) s

/-- `JP V0, nnn` (R130): the sum is not masked. -/
def execJpV0 (nnn : Addr12) (s : State) : Result := complete (.goto (addrOf nnn + zext16 (s.getV 0))) s

end Sys2Proof.Machine
end

