-- ==== Sys2Proof/Machine/Display.lean ====
section
/-! DEFINITION. CLS and DRW, the framebuffer wrap and the collision detector (spec/44_display.md). -/

namespace Sys2Proof.Machine

/-- `CLS` (R190). -/
def execCls (s : State) : Result := complete .advance ((s.setFb Framebuffer.clear).setDraw true)

/-- The cell of the sprite pixel `(row, col)` of a sprite that starts at the linear index `base`: the index wraps, not
the axes (R192; `& 0x7FF` is `mod 2048`). -/
def pixelCell (base row col : Nat) : Nat := (base + row * 64 + col) % fbCells

/-- The columns of the 1 bits of a sprite byte, bit 7 being column 0 (R194). -/
def litColumns (b : Byte) : List Nat := (List.range 8).filter fun col => b.getLsbD (7 - col)

/-- The cells a sprite plots, row by row and column by column (R191). -/
def spriteCells (base : Nat) (bytes : List Byte) : List Nat :=
  bytes.zipIdx.flatMap fun (b, row) => (litColumns b).map (pixelCell base row)

/-- XOR-plot the cells `cs` in order; the second component becomes true if a cell was 1 before its XOR (R193). -/
def plot (fb : Framebuffer) (cs : List Nat) : Framebuffer × Bool :=
  cs.foldl (fun (f, coll) c => (f.flip c, coll || f.cell c)) (fb, false)

/-- The linear index of the start point, `Vy * 64 + Vx` (R192, decision D17). -/
def spriteBase (s : State) (x y : RegIdx) : Nat := (s.getV y).toNat * 64 + (s.getV x).toNat

/-- The cells that `DRW Vx, Vy, n` plots in the state `s`. -/
def drawnCells (s : State) (x y : RegIdx) (n : Fin 16) : List Nat :=
  spriteCells (spriteBase s x y) (s.readBytes s.i.toNat n)

/-- `DRW Vx, Vy, n` (R191). -/
def execDrw (x y : RegIdx) (n : Fin 16) (s : State) : Result :=
  accessAtI n s <|
    let drawn := plot s.fb (drawnCells s x y n)
    complete .advance (((s.setFb drawn.1).setV regF (collisionFlag drawn.2)).setDraw true)

end Sys2Proof.Machine
end

