-- ==== Sys2Proof/Machine/IndexMemory.lean ====
section
/-! DEFINITION. The index register and the instructions that reach memory through it (spec/43_index_memory.md). None of the
accesses changes `I`. -/

namespace Sys2Proof.Machine

/-- `LD I, nnn` (R170). -/
def execLdI (nnn : Addr12) (s : State) : Result := complete .advance (s.setI (addrOf nnn))

/-- `ADD I, Vx` (R171): wraps within 12 bits, no flag. -/
def execAddIVx (x : RegIdx) (s : State) : Result := complete .advance (s.setI (indexSum s.i (s.getV x)))

/-- `LD F, Vx` (R172). -/
def execLdFVx (x : RegIdx) (s : State) : Result := complete .advance (s.setI (glyphAddr s.params (s.getV x)))

/-- `LD B, Vx` (R173): three digit bytes at `I`. -/
def execLdBVx (x : RegIdx) (s : State) : Result :=
  accessAtI 3 s (complete .advance (s.writeBytes s.i.toNat (bcdDigits (s.getV x))))

/-- `LD [I], Vx` (R174): `V0..Vx` to the bytes at `I`. -/
def execLdMemVx (x : RegIdx) (s : State) : Result :=
  accessAtI (x + 1) s (complete .advance (s.writeBytes s.i.toNat ((regsUpTo x).map s.getV)))

/-- `V[r] <- M[I + r]` for the registers `rs`, every byte read from the state `s` before the instruction. -/
def loadRegs (s : State) (rs : List RegIdx) : State :=
  rs.foldl (fun t r => t.setV r (s.readByte (s.i.toNat + r))) s

/-- `LD Vx, [I]` (R175): the bytes at `I` to `V0..Vx`. -/
def execLdVxMem (x : RegIdx) (s : State) : Result :=
  accessAtI (x + 1) s (complete .advance (loadRegs s (regsUpTo x)))

end Sys2Proof.Machine
end

