-- ==== Sys2Proof/Machine/KeysTimers.lean ====
section
/-! DEFINITION. The key skips, the key wait and the timer transfers (spec/45_input_timers.md). -/

namespace Sys2Proof.Machine

/-- `SKP Vx` (R210). -/
def execSkp (x : RegIdx) (s : State) : Result := skipIf (s.keyPressed (s.getV x)) s

/-- `SKNP Vx` (R211). -/
def execSknp (x : RegIdx) (s : State) : Result := skipIf (!s.keyPressed (s.getV x)) s

/-- `LD Vx, DT` (R212). -/
def execLdVxDt (x : RegIdx) (s : State) : Result := complete .advance (s.setV x s.dt)

/-- A key code as a register holds it. -/
def keyByte (k : KeyCode) : Byte := BitVec.ofNat 8 k

/-- `LD Vx, K` (R213, first part): take the latched key-down, or enter AwaitingKey and hold `PC`. -/
def execLdVxK (x : RegIdx) (s : State) : Result :=
  match s.keyLatch with
  | some k => complete .advance (s.setV x (keyByte k))
  | none => complete .hold (s.setWait (some x))

/-- `wait_check(x)` (R213, second part), the step of a core that is waiting. -/
def waitCheck (x : RegIdx) (s : State) : Result :=
  match s.keyLatch with
  | some k => complete .advance ((s.setV x (keyByte k)).setWait none)
  | none => complete .hold s

/-- `LD DT, Vx` (R214). -/
def execLdDtVx (x : RegIdx) (s : State) : Result := complete .advance (s.setDt (s.getV x))

/-- `LD ST, Vx` (R215). -/
def execLdStVx (x : RegIdx) (s : State) : Result := complete .advance (s.setSt (s.getV x))

end Sys2Proof.Machine
end

