-- ==== Sys2Proof/Machine/Cycle.lean ====
section
/-! DEFINITION. The fetch-decode-execute cycle (spec/40_cycle.md R100 to R109), and the placing of an opcode where the next
step fetches it. Machine/Step.lean only calls these. -/

namespace Sys2Proof.Machine

/-- The end of a step: one that raised no error clears `KEYLATCH` (R105, R107); one that did leaves it (R106). -/
def endStep : Result → Result
  | .next t => .next (if t.fault.isSome then t else t.setKeyLatch none)
  | .fault r => .fault r
  | .refused r => .refused r

/-- Decode and execute the fetched opcode `op` (R102, R103); `s` already has it in `IR`. -/
def decodeAndExec (op : Word) (s : State) : Result :=
  match decode s.params.sysPolicy op with
  | .error _ => raise .unknownOpcode none s
  | .ok i => exec i s

/-- The fetch stage and what follows it (R101): a fetch that passes `0xFFF` raises `MemoryFault` with no opcode. -/
def fetchAndExec (s : State) : Result :=
  match s.fetch with
  | none => .next (s.recordFault .memoryFault none (some (firstBadAddr s.pc)))
  | some op => decodeAndExec op (s.setIr op)

/-- One step of a core that has not faulted: `DRAW` is already cleared (R100). A waiting core makes its wait check and
fetches nothing (R108). -/
def runStep (s : State) : Result :=
  match s.wait with
  | some x => waitCheck x s
  | none => fetchAndExec s

/-- The whole step (R109). In a faulted state nothing changes and the step gives the recorded fault again (R100, R236). -/
def cycle (s : State) : Result :=
  match s.fault with
  | some r => .fault (.runOver r)
  | none => endStep (runStep (s.setDraw false))

/-- The opcode `op` in memory at `PC`, in a state whose next step fetches there: not faulted, not waiting, and `PC` at
the program base if no opcode fits at it (a fetch past `0xFFE` faults, R101). Log entry 8. -/
def placeOpcode (s : State) (op : Word) : State :=
  let at_ := if s.pc.toNat + 1 > 0xFFF then s.setPc (BitVec.ofNat 16 progBase) else s
  ((at_.setFault none).setWait none).writeBytes at_.pc.toNat (bytesOfOpcode op)

end Sys2Proof.Machine
end

