-- ==== Sys2Proof/Machine/Step.lean ====
section
/-! DEFINITION. One step of the core, the block's instruction-executing transaction (spec/40_cycle.md), and the placing of
an instruction of the opcode table where the next step fetches. -/

namespace Sys2Proof.Machine

/-- `step` (R109). -/
def step (s : State) : Host.Outcome State Fault Refusal := cycle s

/-- `s` with the instruction of a table row's word stored at `PC`, big-endian; it stands for the host's `load` (log entry 8).
In State.reset it changes two bytes of memory and nothing else. -/
def State.withFetchWord (s : State) (nbits w : Nat) : State := placeOpcode s (tableOpcode nbits w)

end Sys2Proof.Machine
end

