-- ==== Sys2Proof/Machine/Transactions.lean ====
section
/-! DEFINITION. The host's side of the core: the seven transactions of spec/10_state.md R41, their replies, a schedule of
them (spec/60_exceptions.md R239), and the outputs and views (R43, R45). The schedule is the host's choice, no state of
the core (R21). -/

namespace Sys2Proof.Machine

/-- The transactions through which the host reaches the core (R41, R44). -/
inductive Transaction where
  | reset
  | load (image : List Byte)
  | step
  | tickTimers
  | setKeys (mask : BitVec 16)
  | keyDown (k : KeyCode)
  | clearDrawFlag
deriving DecidableEq, Repr

/-- What `step` returns (R42). -/
inductive Status where
  | executed
  | waiting
  | fault (r : FaultRecord)
deriving DecidableEq, Repr

/-- What a transaction returns. -/
inductive Reply where
  | done
  | status (st : Status)
  /-- `load` of an image that does not fit: `MemoryFault` at `addr`; `FAULT` is not set (spec/70_reset_and_hazards.md R261). -/
  | loadError (kind : FaultKind) (addr : Word)
deriving DecidableEq, Repr

/-- The largest image: `4096 - 0x200` bytes (R261). -/
def maxImage : Nat := memSize - progBase

/-- `load(image)` of a core that has not faulted (R261). -/
def loadImage (image : List Byte) (s : State) : State × Reply :=
  if image.length > maxImage then (s, .loadError .memoryFault 0x1000)
  else (s.writeBytes progBase image, .done)

/-- A timer after one tick: one less, stopping at 0 (spec/60_exceptions.md R240). -/
def tickDown (b : Byte) : Byte := if b = 0 then 0 else b - 1

/-- `tick_timers` of a core that has not faulted (R240). -/
def tickTimers (s : State) : State := (s.setDt (tickDown s.dt)).setSt (tickDown s.st)

/-- The key state that `set_keys(mask)` gives: `KEY[k] <- mask[k]` (R41). -/
def keysOfMask (mask : BitVec 16) : Vector Bool 16 := Vector.ofFn fun k => mask.getLsbD k

/-- The status of a step that left the core in the state `t` (R42, R105). -/
def statusOf (t : State) : Status :=
  match t.fault with
  | some r => .fault r
  | none => if t.wait.isSome then .waiting else .executed

/-- The `step` transaction: the next state, or the same state where there is none (R236). -/
def stepTransaction (s : State) : State × Reply :=
  match Machine.step s with
  | .next t => (t, .status (statusOf t))
  | .fault _ | .refused _ => (s, .status (statusOf s))

/-- `reset`: the whole state takes its reset value (R47, R260). The parameters are the core's, and the counter of random
draws goes on, so that later draws are fresh (log entry 2). -/
def resetTransaction (s : State) : State := { State.resetWith s.params with draws := s.draws }

/-- A faulted core answers a host input with no change (R41, R236). DESIGN CHOICE (log entry 13): the spec does not say what
`load` returns then; the model returns `done`, for an over-long image too (R261 is silent on which of its bullets comes
first). Unsafe for a claim about that reply. -/
def unlessFaulted (s : State) (answer : State × Reply) : State × Reply :=
  if s.fault.isSome then (s, .done) else answer

/-- One transaction (R41). -/
def transact (tr : Transaction) (s : State) : State × Reply :=
  match tr with
  | .reset => (resetTransaction s, .done)
  | .load image => unlessFaulted s (loadImage image s)
  | .step => stepTransaction s
  | .tickTimers => unlessFaulted s (tickTimers s, .done)
  | .setKeys mask => unlessFaulted s (s.setKey (keysOfMask mask), .done)
  | .keyDown k => unlessFaulted s (s.setKeyLatch (some k), .done)
  | .clearDrawFlag => unlessFaulted s (s.setDraw false, .done)

/-- The state after a schedule of transactions, in order (R239). -/
def runSchedule : List Transaction → State → State
  | [], s => s
  | tr :: rest, s => runSchedule rest (transact tr s).1

/-! ## Outputs and views (R43, R45): functions of the state, so reading them changes nothing -/

/-- `SOUND_ACTIVE = (ST > 0)` (R32, R43). -/
def State.soundActive (s : State) : Bool := s.st.toNat > 0

/-- The pixel in column `col` and row `row` of the screen (R33). -/
def State.pixel (s : State) (col : Fin 64) (row : Fin 32) : Bool := s.fb.cell (row * 64 + col)

/-- The read-only view for debugging (R45). -/
structure DebugView where
  v : Vector Byte 16
  i : Word
  pc : Word
  stack : List Word
  ir : Word
  dt : Byte
  st : Byte
deriving DecidableEq, Repr

/-- What the block exposes for debugging (R45). -/
def State.debugView (s : State) : DebugView := ⟨s.v, s.i, s.pc, s.stack, s.ir, s.dt, s.st⟩

end Sys2Proof.Machine
end

