-- ==== Sys2Proof/Safety.lean ====
section
/-! DEFINITION. The words that claims about the core are made of: what a transition leaves unchanged, the invariant of
every reachable state, and a safe run. -/

namespace Sys2Proof.Machine

/-! ## Frames -/

/-- The fields of State, to say which of them a transition may change. -/
inductive Field where
  | v | i | pc | stack | dt | st | mem | fb | draw | key | keyLatch | wait | ir | fault | params | draws
deriving DecidableEq, Repr

/-- The field is the same in `t` as in `s`; for memory, every byte reads as before. -/
def Field.Same (s t : State) : Field → Prop
  | .v => ∀ r, t.getV r = s.getV r
  | .i => t.i = s.i
  | .pc => t.pc = s.pc
  | .stack => t.stack = s.stack
  | .dt => t.dt = s.dt
  | .st => t.st = s.st
  | .mem => ∀ a, t.readByte a = s.readByte a
  | .fb => t.fb = s.fb
  | .draw => t.draw = s.draw
  | .key => t.key = s.key
  | .keyLatch => t.keyLatch = s.keyLatch
  | .wait => t.wait = s.wait
  | .ir => t.ir = s.ir
  | .fault => t.fault = s.fault
  | .params => t.params = s.params
  | .draws => t.draws = s.draws

/-- Every field but those of `touched` is the same in `t` as in `s`. -/
def FrameExcept (touched : List Field) (s t : State) : Prop := ∀ f, f ∉ touched → f.Same s t

/-- Every general register but those of `dests` is the same in `t` as in `s`. -/
def RegsExcept (dests : List RegIdx) (s t : State) : Prop := ∀ r, r ∉ dests → t.getV r = s.getV r

/-- Every byte of memory but the `n` bytes at `a` reads in `t` as in `s`. -/
def MemExcept (a n : Nat) (s t : State) : Prop := ∀ b, ¬(a ≤ b ∧ b < a + n) → t.readByte b = s.readByte b

/-- The step from `s` fetches and executes the instruction `i`: the core is neither faulted nor waiting, and the opcode at
`PC` decodes to `i` (spec/40_cycle.md R100 to R103). -/
def Executes (s : State) (i : Instr) : Prop :=
  s.fault = none ∧ s.wait = none ∧ ∃ op, s.fetch = some op ∧ decode s.params.sysPolicy op = .ok i

/-- The instruction `i` writes the general register `r`: its result register, `VF` as a flag, or each of `V0..Vx`
(spec/10_state.md R23, R24). -/
def WritesRegister (i : Instr) (r : RegIdx) : Prop :=
  match i with
  | .ldKk x _ | .addKk x _ | .rnd x _ | .ldVy x _ | .orVy x _ | .andVy x _ | .xorVy x _ | .ldVxDt x | .ldVxK x => r = x
  | .addVy x _ | .subVy x _ | .shrVy x _ | .subnVy x _ | .shlVy x _ => r = x ∨ r = 0xF
  | .drw _ _ _ => r = 0xF
  | .ldVxMem x => r ≤ x
  | .sys _ | .cls | .ret | .jp _ | .call _ | .jpV0 _ | .seKk _ _ | .sneKk _ _ | .seVy _ _ | .sneVy _ _ | .skp _ | .sknp _
  | .ldI _ | .addIVx _ | .ldFVx _ | .ldBVx _ | .ldMemVx _ | .ldDtVx _ | .ldStVx _ => False

/-! ## The invariant of the reachable states -/

/-- What a fault record of a faulted state `s` looks like (spec/60_exceptions.md R230, R232 to R234): it names the
instruction at `PC`; a fault with no opcode is the fetch's `MemoryFault`, and any other opcode is the one in `IR`; an
address stands in a `MemoryFault` only, and lies outside memory. -/
def FaultRecord.Legal (s : State) (r : FaultRecord) : Prop :=
  r.pc = s.pc ∧
  (r.opcode = none → r.kind = .memoryFault) ∧
  (∀ op, r.opcode = some op → op = s.ir) ∧
  (r.addr.isSome ↔ r.kind = .memoryFault) ∧
  (∀ a, r.addr = some a → 0x1000 ≤ a.toNat)

/-- What every reachable state meets. -/
structure Invariant (s : State) : Prop where
  /-- The parameters are a core's: the font lies in memory (spec/00_scope.md R9). -/
  params : s.params.Wf
  /-- Memory is in its canonical form, and has no cell outside `0x000..0xFFF` (spec/10_state.md R38). -/
  memory : Memory.wf s.params s.mem
  /-- "`I ≤ 0xFFF` always holds" (R26). -/
  index : s.i.toNat ≤ 0xFFF
  /-- `PC` is at most `0x10FE` (R28). -/
  pc : s.pc.toNat ≤ 0x10FE
  /-- `SP` ranges over `0..STACK_LIMIT` (R30). -/
  depth : ∀ n, s.params.stackLimit = some n → s.sp ≤ n
  /-- Every return address is at most `0x1000` (spec/41_control_flow.md R122). -/
  returns : ∀ w ∈ s.stack, w.toNat ≤ 0x1000
  /-- A waiting core stands on its `Fx0A` (R39): its opcode is in `IR`, and it lies in memory. -/
  waiting : ∀ x, s.wait = some x →
    s.pc.toNat + 1 ≤ 0xFFF ∧ decode s.params.sysPolicy s.ir = .ok (.ldVxK x) ∧ s.fault = none
  /-- A fault's record is as R230 has it. -/
  fault : ∀ r, s.fault = some r → r.Legal s

/-! ## Safe runs -/

/-- A core with legal parameters, some time after its reset: what a schedule of transactions leads to. -/
def Reachable (s : State) : Prop := ∃ p : Params, p.Wf ∧ ∃ ts, s = runSchedule ts (State.resetWith p)

/-- The schedule `ts` raises no fault from `s` at any point: "a faulted state is never a normal end of a run"
(spec/60_exceptions.md R237, R248). -/
def SafeRun (ts : List Transaction) (s : State) : Prop := ∀ k, (runSchedule (ts.take k) s).fault = none

end Sys2Proof.Machine
end

