-- ==== Sys2Proof/Certificates/Slice0/Obligations.lean ====
section
/-! DEFINITION. The statements for the provers, in the order of spec/. Each says in its docstring which words of spec/ it
formalises; one that rests on a decision or an inference that spec/ marks as its own names it. -/

open Sys2Proof Sys2Proof.Machine

/-! ## Words the statements share -/

/-- A skip (spec/40_cycle.md R104): to `pc0 + 4` if the condition holds, else to `pc0 + 2`; nothing else changes. -/
def Sys2Proof.Machine.SkipsIf (i : Instr) (condition : Prop) (s : State) : Prop :=
  ∃ t, exec i s = .next t ∧ (condition → t.pc = s.pc + 4) ∧ (¬condition → t.pc = s.pc + 2) ∧ FrameExcept [.pc] s t

/-- The instruction completes with the number `res` in `V[x]`; no other register and nothing else but `PC` changes. -/
def Sys2Proof.Machine.SetsRegister (i : Instr) (x : RegIdx) (res : Nat) (s : State) : Prop :=
  ∃ t, exec i s = .next t ∧ (t.getV x).toNat = res ∧ t.pc = s.pc + 2 ∧ RegsExcept [x] s t ∧ FrameExcept [.v, .pc] s t

/-- The instruction completes with the number `res` in `V[x]` and `flag` in `VF`, two different registers; nothing else
but `PC` changes. -/
def Sys2Proof.Machine.SetsResultAndFlag (i : Instr) (x : RegIdx) (res : Int) (flag : Nat) (s : State) : Prop :=
  ∃ t, exec i s = .next t ∧ ((t.getV x).toNat : Int) = res ∧ (t.getV 0xF).toNat = flag ∧ t.pc = s.pc + 2 ∧
    RegsExcept [x, 0xF] s t ∧ FrameExcept [.v, .pc] s t

/-- The instruction's result and its flag both go to `VF`: the later of the two writes stays (spec/42_alu.md R138). -/
def Sys2Proof.Machine.SetsOnlyVF (i : Instr) (res : Int) (flag : Nat) (s : State) : Prop :=
  ∃ t, exec i s = .next t ∧
    (s.params.vfWriteOrder = .flagLast → (t.getV 0xF).toNat = flag) ∧
    (s.params.vfWriteOrder = .resultLast → ((t.getV 0xF).toNat : Int) = res) ∧
    t.pc = s.pc + 2 ∧ RegsExcept [0xF] s t ∧ FrameExcept [.v, .pc] s t

/-- The instruction is the error `kind` (spec/40_cycle.md R106): recorded with `PC`, the opcode in `IR` and `addr`, and
nothing else changes. -/
def Sys2Proof.Machine.Raises (i : Instr) (kind : FaultKind) (addr : Option Word) (s : State) : Prop :=
  ∃ t, exec i s = .next t ∧ t.fault = some ⟨kind, s.pc, some s.ir, addr⟩ ∧ FrameExcept [.fault] s t

/-- The illegal encodings of spec/30_encoding.md R78, as numbers. -/
def Sys2Proof.Machine.IllegalOpcode (policy : SysPolicy) (n : Nat) : Prop :=
  (n < 0x1000 ∧ n ≠ 0x00E0 ∧ n ≠ 0x00EE ∧ policy = .fault) ∨
  (n / 0x1000 = 0x5 ∧ n % 16 ≠ 0) ∨
  (n / 0x1000 = 0x8 ∧ n % 16 ∈ [0x8, 0x9, 0xA, 0xB, 0xC, 0xD, 0xF]) ∨
  (n / 0x1000 = 0x9 ∧ n % 16 ≠ 0) ∨
  (n / 0x1000 = 0xE ∧ n % 256 ∉ [0x9E, 0xA1]) ∨
  (n / 0x1000 = 0xF ∧ n % 256 ∉ [0x07, 0x0A, 0x15, 0x18, 0x1E, 0x29, 0x33, 0x55, 0x65])

/-- Cell `c` is plotted by the sprite of `n` rows at `I` whose start point is `(V[x], V[y])`: some 1 bit of some row's
byte, bit 7 being column 0, lands on it (spec/44_display.md R191, R192, R194). -/
def Sys2Proof.Machine.Plotted (s : State) (x y : RegIdx) (n c : Nat) : Prop :=
  ∃ row col, row < n ∧ col < 8 ∧ (s.readByte (s.i.toNat + row)).getLsbD (7 - col) = true ∧
    c = ((s.getV y).toNat * 64 + (s.getV x).toNat + row * 64 + col) % 2048

/-! ## Reset and memory (spec/10_state.md, spec/20_memory.md, spec/70_reset_and_hazards.md) -/

/-- The reset table of 10_state.md section 12 and the steps of `reset` in 70_reset_and_hazards.md section 1, for every legal
choice of the parameters: memory holds `FONT_DATA` at `FONT_BASE` and 0 elsewhere. `State.reset` is that state for the
defaults of 00_scope.md section 4 (the font bytes are in the next statement). The values of DRAW, KEY, KEYLATCH, WAIT, IR
and FAULT are the spec's decisions D19 and D29, the defaults its decisions D5, D7, D8, D10 and D12. A legal `FONT_BASE` is
log entry 1. The model's own counter of draws is left out (log entry 2). -/
def Obligations.ResetGivesTheTable : Prop :=
  (∀ p : Params, p.Wf → ∀ s, s = State.resetWith p →
    (∀ r, s.getV r = 0) ∧ s.i = 0 ∧ s.pc = 0x200 ∧ s.stack = [] ∧ s.dt = 0 ∧ s.st = 0 ∧
    (∀ c < 2048, s.fb.cell c = false) ∧
    (∀ (d : Fin 16) (j : Fin 5), s.readByte (p.fontBase.toNat + 5 * d + j) = p.fontData[d][j]) ∧
    (∀ a < 4096, a < p.fontBase.toNat ∨ p.fontBase.toNat + 80 ≤ a → s.readByte a = 0) ∧
    s.draw = false ∧ (∀ k : KeyCode, s.key[k] = false) ∧ s.keyLatch = none ∧ s.wait = none ∧ s.ir = 0 ∧
    s.fault = none ∧ s.params = p) ∧
  State.reset = State.resetWith State.reset.params ∧ State.reset.params.Wf ∧
  State.reset.params.stackLimit = some 16 ∧ State.reset.params.shlVfMode = .raw ∧
  State.reset.params.vfWriteOrder = .flagLast ∧ State.reset.params.sysPolicy = .fault ∧
  State.reset.params.fontBase = 0x50

/-- The font in memory after reset: "Glyph `d` is stored at `FONT_BASE + 5*d`", with the bytes of the table of
10_state.md section 8, which the spec marks as general knowledge, at the base of decision D12. -/
def Obligations.FontStandsInMemoryAfterReset : Prop :=
  ∀ row ∈ ([(0x50, [0xF0, 0x90, 0x90, 0x90, 0xF0]), (0x55, [0x20, 0x60, 0x20, 0x20, 0x70]),
            (0x5A, [0xF0, 0x10, 0xF0, 0x80, 0xF0]), (0x5F, [0xF0, 0x10, 0xF0, 0x10, 0xF0]),
            (0x64, [0x90, 0x90, 0xF0, 0x10, 0x10]), (0x69, [0xF0, 0x80, 0xF0, 0x10, 0xF0]),
            (0x6E, [0xF0, 0x80, 0xF0, 0x90, 0xF0]), (0x73, [0xF0, 0x10, 0x20, 0x40, 0x40]),
            (0x78, [0xF0, 0x90, 0xF0, 0x90, 0xF0]), (0x7D, [0xF0, 0x90, 0xF0, 0x10, 0xF0]),
            (0x82, [0xF0, 0x90, 0xF0, 0x90, 0x90]), (0x87, [0xE0, 0x90, 0xE0, 0x90, 0xE0]),
            (0x8C, [0xF0, 0x80, 0x80, 0x80, 0xF0]), (0x91, [0xE0, 0x90, 0x90, 0x90, 0xE0]),
            (0x96, [0xF0, 0x80, 0xF0, 0x80, 0xF0]), (0x9B, [0xF0, 0x80, 0xF0, 0x80, 0x80])] : List (Nat × List Byte)),
    State.reset.readBytes row.1 5 = row.2

/-- "`reset` is the only transaction that leaves a faulted state": from any state, faulted or not, the reset transaction
gives every piece of the core's state its reset value (decision D19 for some of the values). Two points are the model's
choice: the parameters stay as they are (log entry 12), and so does the model's own counter of draws (log entry 2). -/
def Obligations.ResetTransactionFromAnyState : Prop :=
  ∀ s, (transact .reset s).2 = .done ∧
    (transact .reset s).1 = { State.resetWith s.params with draws := s.draws }

/-- Two memories in canonical form that read alike at every address are the same list (the model's form of memory, log
entry 5): so equal states are equal data. -/
def Obligations.CanonicalMemoriesThatReadAlikeAreEqual : Prop :=
  ∀ (p : Params) (m n : Memory), Memory.wf p m → Memory.wf p n → (∀ a, Memory.read p m a = Memory.read p n a) → m = n

/-- 20_memory.md section 2: "Instructions are big-endian. The fetched opcode is `op = M[PC] * 256 + M[PC+1]`, so `M[PC]` supplies
nibbles `nA nB` and `M[PC+1]` supplies nibbles `nC nD`"; and a byte written at `PC`, or after it, is the high, or the low,
byte of the opcode then fetched (which the spec derives, with decision D23). -/
def Obligations.FetchIsBigEndian : Prop :=
  ∀ s : State, s.pc.toNat + 1 ≤ 0xFFF →
    (∃ op, s.fetch = some op ∧ op.toNat = (s.readByte s.pc.toNat).toNat * 256 + (s.readByte (s.pc.toNat + 1)).toNat ∧
      (nA op).toNat = (s.readByte s.pc.toNat).toNat / 16 ∧ (fieldX op).val = (s.readByte s.pc.toNat).toNat % 16 ∧
      (fieldY op).val = (s.readByte (s.pc.toNat + 1)).toNat / 16 ∧
      (nD op).toNat = (s.readByte (s.pc.toNat + 1)).toNat % 16) ∧
    (∀ b, ∃ op, (s.writeByte s.pc.toNat b).fetch = some op ∧
      op.toNat = b.toNat * 256 + (s.readByte (s.pc.toNat + 1)).toNat) ∧
    (∀ b, ∃ op, (s.writeByte (s.pc.toNat + 1) b).fetch = some op ∧
      op.toNat = (s.readByte s.pc.toNat).toNat * 256 + b.toNat)

/-! ## Encoding (spec/30_encoding.md) -/

/-- Decoding the opcode of a well-formed instruction gives the instruction back, with every operand at every value: under
`SYS_POLICY = nop` for all 35, and under either policy for all but SYS. -/
def Obligations.DecodeOfEncodeIsTheInstruction : Prop :=
  (∀ i : Instr, i.wellFormed = true → decode .nop (encode i) = .ok i) ∧
  (∀ (policy : SysPolicy) (i : Instr), (∀ nnn, i ≠ .sys nnn) → decode policy (encode i) = .ok i)

/-- Every opcode that decodes is the opcode of the one well-formed instruction it decodes to: decoding drops no bit, and no
two opcodes decode alike. -/
def Obligations.EncodeOfDecodeIsTheOpcode : Prop :=
  ∀ (policy : SysPolicy) (op : Word) (i : Instr), decode policy op = .ok i → encode i = op ∧ i.wellFormed = true

/-- Strict matching (the decoder of 30_encoding.md section 4, decision D11): with every row in use, an opcode decodes iff
every fixed bit of some row's pattern equals the opcode's; an instruction decoded matches its own row; and two rows that
match one opcode are the same row, unless one of them is the row of SYS and the opcode is `00E0` or `00EE`. -/
def Obligations.DecodingMatchesTheRowsStrictly : Prop :=
  (∀ op, (∃ i, decode .nop op = .ok i) ↔ ∃ i : Instr, i.row.Matches op) ∧
  (∀ op i, decode .nop op = .ok i → i.row.Matches op) ∧
  (∀ (op : Word) (i j : Instr), i.row.Matches op → j.row.Matches op →
    i.row = j.row ∨ ((op = 0x00E0 ∨ op = 0x00EE) ∧ (i.row.pattern = 0 ∨ j.row.pattern = 0)))

/-- "The illegal encodings are exactly these. Each decodes to `UnknownOpcode`": the list of 30_encoding.md section 4, an
inference of the spec from its decoder, under both policies. -/
def Obligations.IllegalEncodingsAreExactlyThese : Prop :=
  ∀ (policy : SysPolicy) (op : Word),
    decode policy op = .error (.unknownOpcode op) ↔ IllegalOpcode policy op.toNat

/-- A word of every row of the opcode map, written out from its pattern (general knowledge, as the spec marks most of
them), and the encoding examples `8000` and `800E`; the other six encoding examples of 30_encoding.md section 5 are among
the first ones. The words that decode to nothing are those of the spec's test vectors. SYS decodes under `nop` only. -/
def Obligations.SampleWordsDecode : Prop :=
  (∀ row ∈ ([(0x00E0, .cls), (0x00EE, .ret), (0x1200, .jp 0x200), (0x2300, .call 0x300), (0x3342, .seKk 3 0x42),
             (0x4342, .sneKk 3 0x42), (0x5120, .seVy 1 2), (0x6A12, .ldKk 0xA 0x12), (0x7A05, .addKk 0xA 0x05),
             (0x8120, .ldVy 1 2), (0x8121, .orVy 1 2), (0x8122, .andVy 1 2), (0x8123, .xorVy 1 2)] ++
            [(0x8124, .addVy 1 2), (0x8125, .subVy 1 2), (0x8126, .shrVy 1 2), (0x8127, .subnVy 1 2),
             (0x812E, .shlVy 1 2), (0x9120, .sneVy 1 2), (0xA2F0, .ldI 0x2F0), (0xB300, .jpV0 0x300),
             (0xC30F, .rnd 3 0x0F), (0xD125, .drw 1 2 5), (0xE49E, .skp 4), (0xE4A1, .sknp 4)] ++
            [(0xF107, .ldVxDt 1), (0xF20A, .ldVxK 2), (0xF115, .ldDtVx 1), (0xF118, .ldStVx 1), (0xF21E, .addIVx 2),
             (0xF329, .ldFVx 3), (0xF333, .ldBVx 3), (0xF255, .ldMemVx 2), (0xF265, .ldVxMem 2), (0x8000, .ldVy 0 0),
             (0x800E, .shlVy 0 0)] : List (Word × Instr)),
    decode .fault row.1 = .ok row.2) ∧
  decode .nop 0x0123 = .ok (.sys 0x123) ∧ decode .fault 0x0123 = .error (.unknownOpcode 0x0123) ∧
  decode .fault 0xFFFF = .error (.unknownOpcode 0xFFFF) ∧ decode .nop 0x8128 = .error (.unknownOpcode 0x8128)

/-! ## The cycle (spec/40_cycle.md) and errors (spec/60_exceptions.md) -/

/-- A step runs the decoded instruction: `DRAW` is cleared, the opcode of the two bytes at `PC` goes to `IR`, its
instruction runs in that state with `PC` its address, and the end of a step that raised nothing clears `KEYLATCH`
(40_cycle.md's step in pseudocode, with decisions D3, D18 and D19). -/
def Obligations.StepRunsTheDecodedInstruction : Prop :=
  ∀ (s : State) (i : Instr), s.fault = none → s.wait = none → s.pc.toNat + 1 ≤ 0xFFF →
    decode s.params.sysPolicy (opcodeOfBytes (s.readByte s.pc.toNat) (s.readByte (s.pc.toNat + 1))) = .ok i →
    step s =
      match exec i { s with draw := false, ir := opcodeOfBytes (s.readByte s.pc.toNat) (s.readByte (s.pc.toNat + 1)) } with
      | .next u => .next (if u.fault = none then { u with keyLatch := none } else u)
      | .fault r => .fault r
      | .refused r => .refused r

/-- Nothing stops but a faulted core: every instruction answers a next state in every state, and so does the step of every
core that is not faulted (the model's form of an error is a next state, log entry 3). -/
def Obligations.OnlyAFaultedCoreStops : Prop :=
  (∀ (i : Instr) (s : State), ∃ t, exec i s = .next t) ∧
  (∀ s : State, s.fault = none → ∃ t, step s = .next t)

/-- "From then on, `step` returns the same `Fault(FAULT)` and changes nothing", and the other transactions but `reset`
change nothing (60_exceptions.md section 3, decision D4): a faulted core. -/
def Obligations.FaultedCoreChangesNothing : Prop :=
  ∀ (s : State) (r : FaultRecord), s.fault = some r →
    step s = .fault (.runOver r) ∧ transact .step s = (s, .status (.fault r)) ∧
    ∀ tr, tr ≠ .reset → (transact tr s).1 = s

/-- The fetch stage: a `PC` above `0xFFE` is a `MemoryFault` with no opcode and `addr = max(PC, 0x1000)`; only `DRAW` and
`FAULT` change (40_cycle.md, the fetch; decisions D2 and D3). -/
def Obligations.FetchPastMemoryFaults : Prop :=
  ∀ s : State, s.fault = none → s.wait = none → 0xFFF < s.pc.toNat + 1 →
    ∃ t a, step s = .next t ∧ t.fault = some ⟨.memoryFault, s.pc, none, some a⟩ ∧ a.toNat = max s.pc.toNat 0x1000 ∧
      t.draw = false ∧ FrameExcept [.draw, .fault] s t

/-- 60_exceptions.md section 1, with the decoder of decision D11: the step of a core that fetches raises `UnknownOpcode` iff the fetched opcode "matches no row" in
use (the row of SYS is in use under `SYS_POLICY = nop` only), that is iff it is an illegal encoding, and "records
`pc = pc0`, `opcode = op` and no address"; the step then changes only `DRAW`, `IR` and `FAULT` (decisions D3, D19, D29). -/
def Obligations.UnknownOpcodeIsRaisedByDecode : Prop :=
  ∀ (s : State) (op : Word), s.fault = none → s.wait = none → s.fetch = some op →
    ∃ t, step s = .next t ∧
      ((∃ r, t.fault = some r ∧ r.kind = .unknownOpcode) ↔ IllegalOpcode s.params.sysPolicy op.toNat) ∧
      (IllegalOpcode s.params.sysPolicy op.toNat ↔
        ¬∃ j : Instr, (s.params.sysPolicy = .nop ∨ ∀ nnn, j ≠ .sys nnn) ∧ j.row.Matches op) ∧
      (IllegalOpcode s.params.sysPolicy op.toNat →
        t.fault = some ⟨.unknownOpcode, s.pc, some op, none⟩ ∧ t.ir = op ∧ t.draw = false ∧
        FrameExcept [.draw, .ir, .fault] s t)

/-- A faulting step keeps nothing of the instruction (40_cycle.md, a faulting step; decision D3): "no register, memory
cell, framebuffer cell, stack entry or timer changes, and `PC` stays `pc0`", `DRAW` is false, `KEYLATCH` is unchanged, and
`IR` has the opcode, if one was fetched. -/
def Obligations.FaultingStepKeepsNothing : Prop :=
  ∀ (s t : State) (r : FaultRecord), step s = .next t → t.fault = some r →
    FrameExcept [.draw, .ir, .fault] s t ∧ t.draw = false ∧ r.pc = s.pc ∧ r.opcode = s.fetch ∧
    (∀ op, s.fetch = some op → t.ir = op) ∧ (s.fetch = none → t.ir = s.ir)

/-- Each error has its cause (60_exceptions.md sections 1 and 2, decisions D2, D5 and D21): what a step that raised an
error had fetched, and which condition of that instruction failed. -/
def Obligations.EveryErrorHasItsCause : Prop :=
  ∀ (s t : State) (r : FaultRecord), step s = .next t → t.fault = some r →
    match r.kind with
    | .unknownOpcode => ∃ op, s.fetch = some op ∧ decode s.params.sysPolicy op = .error (.unknownOpcode op)
    | .memoryFault => (s.fetch = none ∧ 0xFFF < s.pc.toNat + 1) ∨
        (∃ x y n, Executes s (.drw x y n) ∧ n ≠ 0 ∧ 0xFFF < s.i.toNat + n - 1) ∨
        (∃ x, Executes s (.ldBVx x) ∧ 0xFFF < s.i.toNat + 2) ∨
        (∃ x, (Executes s (.ldMemVx x) ∨ Executes s (.ldVxMem x)) ∧ 0xFFF < s.i.toNat + x)
    | .stackUnderflow => Executes s .ret ∧ s.stack = []
    | .stackOverflow => ∃ nnn n, Executes s (.call nnn) ∧ s.params.stackLimit = some n ∧ n ≤ s.sp

/-- Only its writers change each piece of state in a step (40_cycle.md's frame rule, an inference of the spec; the writers
of each piece in 10_state.md and 20_memory.md, with decisions D3, D15, D18, D19 and D29): a general register changes only
by an instruction that writes it or by the end of a wait for it, `PC` only in a step that completes an instruction, `IR`
only to the fetched opcode, `DRAW` becomes true only by `CLS` and `DRW` (`DrawFlagAfterAStep` says when it is true),
`FAULT` changes only from none, in a step that waits for no key (`EveryErrorHasItsCause` says when). `KEY` never changes,
and no step ticks a timer. The parameters and the counter of draws are the model's own fields (log entries 1 and 2). -/
def Obligations.OnlyItsWritersChangeState : Prop :=
  ∀ s t : State, step s = .next t →
    (∀ r, t.getV r ≠ s.getV r →
      (s.wait = some r ∧ s.keyLatch ≠ none) ∨ ∃ i, Executes s i ∧ WritesRegister i r) ∧
    (t.i ≠ s.i → (∃ nnn, Executes s (.ldI nnn)) ∨ ∃ x, Executes s (.addIVx x) ∨ Executes s (.ldFVx x)) ∧
    (t.pc ≠ s.pc → t.fault = none ∧ t.wait = none) ∧
    (t.stack ≠ s.stack → Executes s .ret ∨ ∃ nnn, Executes s (.call nnn)) ∧
    (t.dt ≠ s.dt → ∃ x, Executes s (.ldDtVx x)) ∧
    (t.st ≠ s.st → ∃ x, Executes s (.ldStVx x)) ∧
    (t.mem ≠ s.mem → ∃ x, Executes s (.ldBVx x) ∨ Executes s (.ldMemVx x)) ∧
    (t.fb ≠ s.fb → Executes s .cls ∨ ∃ x y n, Executes s (.drw x y n)) ∧
    (t.draw = true → Executes s .cls ∨ ∃ x y n, Executes s (.drw x y n)) ∧
    t.key = s.key ∧ (t.keyLatch ≠ s.keyLatch → t.keyLatch = none) ∧ (t.fault = none → t.keyLatch = none) ∧
    (t.wait ≠ s.wait → s.wait ≠ none ∨ ∃ x, Executes s (.ldVxK x)) ∧
    (t.ir ≠ s.ir → s.wait = none ∧ s.fetch = some t.ir) ∧
    (t.fault ≠ s.fault → s.fault = none ∧ s.wait = none) ∧
    t.params = s.params ∧ (t.draws ≠ s.draws → ∃ x kk, Executes s (.rnd x kk))

/-- "Right after a step `DRAW` is true iff that step executed `CLS` or `DRW` without a fault" (44_display.md, draw-flag
generation: an inference of the spec, and its decision D19). -/
def Obligations.DrawFlagAfterAStep : Prop :=
  ∀ s t : State, step s = .next t →
    (t.draw = true ↔ t.fault = none ∧ (Executes s .cls ∨ ∃ x y n, Executes s (.drw x y n)))

/-- A step in the AwaitingKey state (40_cycle.md, and the wait check of 45_input_timers.md; decision D18): no fetch. With a
key-down latched it goes to `V[x]` and the wait ends, and the step returns `Executed`; with none latched nothing but
`DRAW` changes and the step returns `Waiting`. -/
def Obligations.WaitingStepMakesTheWaitCheck : Prop :=
  ∀ (s : State) (x : RegIdx), s.fault = none → s.wait = some x →
    (∀ k : KeyCode, s.keyLatch = some k → ∃ t, transact .step s = (t, .status .executed) ∧ step s = .next t ∧
      (t.getV x).toNat = k.val ∧ t.wait = none ∧ t.pc = s.pc + 2 ∧ t.keyLatch = none ∧ t.draw = false ∧
      RegsExcept [x] s t ∧ FrameExcept [.v, .wait, .pc, .keyLatch, .draw] s t) ∧
    (s.keyLatch = none → ∃ t, transact .step s = (t, .status .waiting) ∧ step s = .next t ∧
      t.draw = false ∧ FrameExcept [.draw] s t)

/-- 70_reset_and_hazards.md R267: "The only instruction that can take more than one step is `LD Vx, K` (`Fx0A`). It takes
steps until a key-down is latched": a step returns `Waiting` iff no key-down is latched and the core waits or has just
fetched a `LD Vx, K`. -/
def Obligations.OnlyTheKeyWaitTakesMoreSteps : Prop :=
  ∀ s : State, (transact .step s).2 = .status .waiting ↔
    s.fault = none ∧ s.keyLatch = none ∧ ((∃ x, s.wait = some x) ∨ ∃ x, Executes s (.ldVxK x))

/-- No instruction reads `DRAW` or `IR` (10_state.md sections 4 and 7, decision D29): the step of a core that is not
faulted does not depend on the draw flag, and one that fetches does not depend on the old `IR`. -/
def Obligations.DrawAndIrAreNotRead : Prop :=
  (∀ (s : State) (d : Bool), s.fault = none → step { s with draw := d } = step s) ∧
  (∀ (s : State) (w : Word), s.fault = none → s.wait = none → s.pc.toNat + 1 ≤ 0xFFF →
    step { s with ir := w } = step s)

/-- Only `SKP` and `SKNP` read the key state (10_state.md section 8): a step of any other instruction, of a waiting core or
of one that faults does the same, whatever `KEY` holds, and leaves `KEY` as it was. -/
def Obligations.OnlyTheKeySkipsReadTheKeys : Prop :=
  ∀ (s t : State) (k : Vector Bool 16), (∀ x, ¬Executes s (.skp x) ∧ ¬Executes s (.sknp x)) →
    step s = .next t → step { s with key := k } = .next { t with key := k }

/-! ## Control flow (spec/41_control_flow.md) -/

/-- `SYS nnn` (decision D10): under `SYS_POLICY = nop` "no state changes", and the outcome is `Advance`; under `fault` the
decoder raises the `UnknownOpcode` error and the instruction never runs: that `exec`, asked to run it all the same, raises
that error too is the model's choice (log entry 4). -/
def Obligations.SysAdvancesOrIsUnknown : Prop :=
  ∀ (s : State) (nnn : Addr12),
    (s.params.sysPolicy = .nop → ∃ t, exec (.sys nnn) s = .next t ∧ t.pc = s.pc + 2 ∧ FrameExcept [.pc] s t) ∧
    (s.params.sysPolicy = .fault → Raises (.sys nnn) .unknownOpcode none s)

/-- 41_control_flow.md R124, `JP nnn`: "*Pseudocode*: outcome `Goto(nnn)`"; no flag, no exception. -/
def Obligations.JumpGoesToItsAddress : Prop :=
  ∀ (s : State) (nnn : Addr12), ∃ t, exec (.jp nnn) s = .next t ∧ t.pc.toNat = nnn.toNat ∧ FrameExcept [.pc] s t

/-- `JP V0, nnn`: `t <- nnn + V[0]`, "a value in `0..0x10FE`, not masked" (decision D28). -/
def Obligations.JumpV0AddsUnmasked : Prop :=
  ∀ (s : State) (nnn : Addr12), ∃ t, exec (.jpV0 nnn) s = .next t ∧
    t.pc.toNat = nnn.toNat + (s.getV 0).toNat ∧ FrameExcept [.pc] s t

/-- `CALL nnn` on a stack with room pushes the address after the call, `pc0 + 2` (decision D6), and goes to `nnn`. The
limit is a parameter (decision D5): an unbounded stack always has room. -/
def Obligations.CallPushesTheAddressAfterIt : Prop :=
  ∀ (s : State) (nnn : Addr12), (∀ n, s.params.stackLimit = some n → s.sp < n) →
    ∃ t, exec (.call nnn) s = .next t ∧ t.stack = s.stack ++ [s.pc + 2] ∧ t.pc.toNat = nnn.toNat ∧
      FrameExcept [.stack, .pc] s t

/-- `CALL nnn` on a stack at its limit is the `StackOverflow` error, and nothing else changes (decisions D3 and D5; a stack
beyond its limit, which no run has, is full too, log entry 7). -/
def Obligations.CallOnAFullStackOverflows : Prop :=
  ∀ (s : State) (nnn : Addr12) (n : Nat), s.params.stackLimit = some n → n ≤ s.sp →
    Raises (.call nnn) .stackOverflow none s

/-- 41_control_flow.md R122, `RET`: "*Pseudocode*: `t <- Pop()`; outcome `Goto(t)`"; `StackUnderflow` if `SP = 0`, and then
"Nothing changes" (but the record of the error). -/
def Obligations.RetPopsOrUnderflows : Prop :=
  ∀ s : State,
    (∀ rest w, s.stack = rest ++ [w] →
      ∃ t, exec .ret s = .next t ∧ t.pc = w ∧ t.stack = rest ∧ FrameExcept [.stack, .pc] s t) ∧
    (s.stack = [] → Raises .ret .stackUnderflow none s)

/-- The call-return law (41_control_flow.md, an inference of the spec, with decisions D5 and D6): a `CALL b` at `a`, then
the `RET` at `b`: after those two steps `PC = a + 2` and the stack is as before the call. -/
def Obligations.CallThenReturnResumesAfterTheCall : Prop :=
  ∀ (s : State) (b : Addr12), Executes s (.call b) → (∀ n, s.params.stackLimit = some n → s.sp < n) →
    s.readByte b.toNat = 0x00 → s.readByte (b.toNat + 1) = 0xEE → b.toNat + 1 ≤ 0xFFF →
    ∃ t u, step s = .next t ∧ t.pc.toNat = b.toNat ∧ step t = .next u ∧ u.pc = s.pc + 2 ∧ u.stack = s.stack ∧
      FrameExcept [.pc, .ir, .draw, .keyLatch] s u

/-- 41_control_flow.md R126 to R129: "if `V[x] = kk` then outcome `Skip`, else `Advance`", and so for `≠` and for two
registers; no flag, no exception. -/
def Obligations.RegisterSkips : Prop :=
  ∀ (s : State) (x y : RegIdx) (kk : Byte),
    SkipsIf (.seKk x kk) ((s.getV x).toNat = kk.toNat) s ∧
    SkipsIf (.sneKk x kk) ((s.getV x).toNat ≠ kk.toNat) s ∧
    SkipsIf (.seVy x y) ((s.getV x).toNat = (s.getV y).toNat) s ∧
    SkipsIf (.sneVy x y) ((s.getV x).toNat ≠ (s.getV y).toNat) s

/-! ## Arithmetic, logic, random (spec/42_alu.md) -/

/-- 42_alu.md R139, R140, R141: `V[x] <- kk`; `V[x] <- (V[x] + kk) mod 256`, with "no flag side effect"; `V[x] <- V[y]`. -/
def Obligations.LoadsAndAddImmediate : Prop :=
  ∀ (s : State) (x y : RegIdx) (kk : Byte),
    SetsRegister (.ldKk x kk) x kk.toNat s ∧
    SetsRegister (.addKk x kk) x (((s.getV x).toNat + kk.toNat) % 256) s ∧
    SetsRegister (.ldVy x y) x (s.getV y).toNat s

/-- `OR`, `AND` and `XOR` of two registers, bit by bit; `VF` is unchanged unless it is the destination (decision D9). -/
def Obligations.LogicOpsWorkBitByBit : Prop :=
  ∀ (s : State) (x y : RegIdx),
    (∃ t, exec (.orVy x y) s = .next t ∧
      (∀ k < 8, (t.getV x).getLsbD k = ((s.getV x).getLsbD k || (s.getV y).getLsbD k)) ∧
      t.pc = s.pc + 2 ∧ RegsExcept [x] s t ∧ FrameExcept [.v, .pc] s t) ∧
    (∃ t, exec (.andVy x y) s = .next t ∧
      (∀ k < 8, (t.getV x).getLsbD k = ((s.getV x).getLsbD k && (s.getV y).getLsbD k)) ∧
      t.pc = s.pc + 2 ∧ RegsExcept [x] s t ∧ FrameExcept [.v, .pc] s t) ∧
    (∃ t, exec (.xorVy x y) s = .next t ∧
      (∀ k < 8, (t.getV x).getLsbD k = ((s.getV x).getLsbD k != (s.getV y).getLsbD k)) ∧
      t.pc = s.pc + 2 ∧ RegsExcept [x] s t ∧ FrameExcept [.v, .pc] s t)

/-- 42_alu.md R145 to R148, in the integers, for a destination other than `VF` (`FlagOpsOnVFKeepTheLaterWrite` has the
other): the sum and its carry, the two differences and their no-borrow flags, the right shift and the bit shifted out. -/
def Obligations.ArithmeticSetsResultAndFlag : Prop :=
  ∀ (s : State) (x y : RegIdx), x ≠ 0xF →
    SetsResultAndFlag (.addVy x y) x (((s.getV x).toNat + (s.getV y).toNat : Int) % 256)
      (if (s.getV x).toNat + (s.getV y).toNat > 255 then 1 else 0) s ∧
    SetsResultAndFlag (.subVy x y) x (((s.getV x).toNat - (s.getV y).toNat : Int) % 256)
      (if (s.getV x).toNat ≥ (s.getV y).toNat then 1 else 0) s ∧
    SetsResultAndFlag (.shrVy x y) x ((s.getV y).toNat / 2) ((s.getV y).toNat % 2) s ∧
    SetsResultAndFlag (.subnVy x y) x (((s.getV y).toNat - (s.getV x).toNat : Int) % 256)
      (if (s.getV y).toNat ≥ (s.getV x).toNat then 1 else 0) s

/-- `SHL Vx, Vy` for a destination other than `VF`: the operand is `Vy`, and the flag is bit 7 of it, as `0` or `0x80` under
`SHL_VF_MODE = raw` and as 0 or 1 under `normalised` (decision D7). -/
def Obligations.ShiftLeftFlagFollowsItsMode : Prop :=
  ∀ (s : State) (x y : RegIdx), x ≠ 0xF →
    (s.params.shlVfMode = .raw → SetsResultAndFlag (.shlVy x y) x ((s.getV y).toNat * 2 % 256)
      (if (s.getV y).toNat ≥ 128 then 0x80 else 0) s) ∧
    (s.params.shlVfMode = .normalised → SetsResultAndFlag (.shlVy x y) x ((s.getV y).toNat * 2 % 256)
      (if (s.getV y).toNat ≥ 128 then 1 else 0) s)

/-- With `x = F` the five flag-writing register ops write `VF` twice: "`VF` ends as `f` under `flag_last`, and as `res`
under `result_last`" (decision D8; D7 for the flag of `SHL`). -/
def Obligations.FlagOpsOnVFKeepTheLaterWrite : Prop :=
  ∀ (s : State) (y : RegIdx),
    SetsOnlyVF (.addVy 0xF y) (((s.getV 0xF).toNat + (s.getV y).toNat : Int) % 256)
      (if (s.getV 0xF).toNat + (s.getV y).toNat > 255 then 1 else 0) s ∧
    SetsOnlyVF (.subVy 0xF y) (((s.getV 0xF).toNat - (s.getV y).toNat : Int) % 256)
      (if (s.getV 0xF).toNat ≥ (s.getV y).toNat then 1 else 0) s ∧
    SetsOnlyVF (.shrVy 0xF y) ((s.getV y).toNat / 2) ((s.getV y).toNat % 2) s ∧
    SetsOnlyVF (.subnVy 0xF y) (((s.getV y).toNat - (s.getV 0xF).toNat : Int) % 256)
      (if (s.getV y).toNat ≥ (s.getV 0xF).toNat then 1 else 0) s ∧
    SetsOnlyVF (.shlVy 0xF y) ((s.getV y).toNat * 2 % 256)
      (if (s.getV y).toNat ≥ 128 then (if s.params.shlVfMode = .raw then 0x80 else 1) else 0) s

/-- `RND Vx, kk` takes one fresh random byte `r` and writes `r & kk`: "Every bit of `V[x]` outside `kk` is 0". The byte is a
free value (decision D25, log entry 2), and the statement holds whatever it is. -/
def Obligations.RandomByteUnderItsMask : Prop :=
  ∀ (s : State) (x : RegIdx) (kk : Byte), ∃ t, exec (.rnd x kk) s = .next t ∧
    (∀ k < 8, (t.getV x).getLsbD k = ((Config.randomByte s.draws).getLsbD k && kk.getLsbD k)) ∧
    t.draws = s.draws + 1 ∧ t.pc = s.pc + 2 ∧ RegsExcept [x] s t ∧ FrameExcept [.v, .pc, .draws] s t

/-! ## Index register and memory (spec/43_index_memory.md) -/

/-- 43_index_memory.md R170, `LD I, nnn`: "*Pseudocode*: `I <- zext_16(nnn)`; outcome `Advance`". -/
def Obligations.LoadIndexSetsTheAddress : Prop :=
  ∀ (s : State) (nnn : Addr12), ∃ t, exec (.ldI nnn) s = .next t ∧ t.i.toNat = nnn.toNat ∧ t.pc = s.pc + 2 ∧
    FrameExcept [.i, .pc] s t

/-- `ADD I, Vx`: `I <- (I + V[x]) & 0xFFF`, with no flag (decision D27); `LD F, Vx`: `I <- FONT_BASE + 5 * (V[x] & 0xF)`
(decision D13), for a font that lies in memory (log entry 1). -/
def Obligations.IndexArithmetic : Prop :=
  ∀ (s : State) (x : RegIdx),
    (∃ t, exec (.addIVx x) s = .next t ∧ t.i.toNat = (s.i.toNat + (s.getV x).toNat) % 0x1000 ∧ t.pc = s.pc + 2 ∧
      FrameExcept [.i, .pc] s t) ∧
    (s.params.Wf → ∃ t, exec (.ldFVx x) s = .next t ∧
      t.i.toNat = s.params.fontBase.toNat + 5 * ((s.getV x).toNat % 16) ∧ t.pc = s.pc + 2 ∧ FrameExcept [.i, .pc] s t)

/-- `LD B, Vx` with its three bytes in memory (decision D2): hundreds, tens and ones to `M[I]`, `M[I+1]`, `M[I+2]`; every
other byte of memory, every register and `I` are unchanged. -/
def Obligations.BcdStoresThreeDigits : Prop :=
  ∀ (s : State) (x : RegIdx), s.i.toNat + 2 ≤ 0xFFF →
    ∃ t, exec (.ldBVx x) s = .next t ∧
      (t.readByte s.i.toNat).toNat = (s.getV x).toNat / 100 ∧
      (t.readByte (s.i.toNat + 1)).toNat = (s.getV x).toNat / 10 % 10 ∧
      (t.readByte (s.i.toNat + 2)).toNat = (s.getV x).toNat % 10 ∧
      MemExcept s.i.toNat 3 s t ∧ t.pc = s.pc + 2 ∧ FrameExcept [.mem, .pc] s t

/-- `LD [I], Vx` with its `x + 1` bytes in memory: `V[0..x]` to `M[I..I+x]`; every other byte, every register and `I` are
unchanged (decision D15). -/
def Obligations.RegisterDumpStoresTheRegisters : Prop :=
  ∀ (s : State) (x : RegIdx), s.i.toNat + x ≤ 0xFFF →
    ∃ t, exec (.ldMemVx x) s = .next t ∧ (∀ r ≤ x, t.readByte (s.i.toNat + r) = s.getV r) ∧
      MemExcept s.i.toNat (x + 1) s t ∧ t.pc = s.pc + 2 ∧ FrameExcept [.mem, .pc] s t

/-- `LD Vx, [I]` with its `x + 1` bytes in memory: `M[I..I+x]` to `V[0..x]`; the registers above `x`, memory and `I` are
unchanged (decision D15). -/
def Obligations.RegisterLoadReadsTheBytes : Prop :=
  ∀ (s : State) (x : RegIdx), s.i.toNat + x ≤ 0xFFF →
    ∃ t, exec (.ldVxMem x) s = .next t ∧ (∀ r ≤ x, t.getV r = s.readByte (s.i.toNat + r)) ∧
      (∀ r, x < r → t.getV r = s.getV r) ∧ t.pc = s.pc + 2 ∧ FrameExcept [.v, .pc] s t

/-- The range checks of the instructions that reach memory at `I` (decisions D2 and D3): an access that would pass `0xFFF`
is a `MemoryFault` that names the lowest such address, `0x1000` for an `I` in memory, and nothing else changes. -/
def Obligations.AccessPastMemoryFaults : Prop :=
  ∀ (s : State) (x y : RegIdx) (n : Fin 16), s.i.toNat ≤ 0xFFF →
    (0xFFF < s.i.toNat + 2 → Raises (.ldBVx x) .memoryFault (some 0x1000) s) ∧
    (0xFFF < s.i.toNat + x → Raises (.ldMemVx x) .memoryFault (some 0x1000) s ∧
      Raises (.ldVxMem x) .memoryFault (some 0x1000) s) ∧
    (n ≠ 0 → 0xFFF < s.i.toNat + n - 1 → Raises (.drw x y n) .memoryFault (some 0x1000) s)

/-- The dump-load round trip (43_index_memory.md, an inference of the spec): a dump, then a load at the same `I` and `x` of
a state in which `I` and those bytes are as the dump left them, whatever the registers hold by then, gives `V0..Vx` back. -/
def Obligations.DumpThenLoadRestoresTheRegisters : Prop :=
  ∀ (s t u : State) (x : RegIdx), s.i.toNat + x ≤ 0xFFF → exec (.ldMemVx x) s = .next t →
    u.i = t.i → (∀ r ≤ x, u.readByte (s.i.toNat + r) = t.readByte (s.i.toNat + r)) →
    ∃ w, exec (.ldVxMem x) u = .next w ∧ (∀ r ≤ x, w.getV r = s.getV r) ∧ (∀ r, x < r → w.getV r = u.getV r)

/-! ## Display (spec/44_display.md) -/

/-- 44_display.md R190, `CLS`: "`for c in 0 .. 2047: FB[c] <- 0`; `DRAW <- true`; outcome `Advance`"; `VF` is not written. -/
def Obligations.ClearScreenClearsEveryCell : Prop :=
  ∀ s : State, ∃ t, exec .cls s = .next t ∧ (∀ c < 2048, t.fb.cell c = false) ∧ t.draw = true ∧ t.pc = s.pc + 2 ∧
    FrameExcept [.fb, .draw, .pc] s t

/-- "The cells that one `DRW` plots are all different" (44_display.md, the collision detector: an inference of the spec), so
every cell is flipped at most once; and each is a cell of the framebuffer. -/
def Obligations.SpriteCellsAreAllDifferent : Prop :=
  ∀ (s : State) (x y : RegIdx) (n : Fin 16), (drawnCells s x y n).Nodup ∧ ∀ c ∈ drawnCells s x y n, c < 2048

/-- `DRW Vx, Vy, n` with its bytes in memory, or `n = 0` (decisions D2, D16 and D17): every plotted cell flips and no other,
`VF` is 1 iff a plotted cell was 1, and `DRAW` is set; the start point is read from the old registers, so `x` and `y` may
be `F`. -/
def Obligations.DrawFlipsThePlottedCells : Prop :=
  ∀ (s : State) (x y : RegIdx) (n : Fin 16), (n = 0 ∨ s.i.toNat + n - 1 ≤ 0xFFF) →
    ∃ t, exec (.drw x y n) s = .next t ∧
      (∀ c < 2048, (Plotted s x y n c → t.fb.cell c = !s.fb.cell c) ∧
        (¬Plotted s x y n c → t.fb.cell c = s.fb.cell c)) ∧
      ((∃ c < 2048, Plotted s x y n c ∧ s.fb.cell c = true) → t.getV 0xF = 1) ∧
      ((¬∃ c < 2048, Plotted s x y n c ∧ s.fb.cell c = true) → t.getV 0xF = 0) ∧
      t.draw = true ∧ t.pc = s.pc + 2 ∧ RegsExcept [0xF] s t ∧ FrameExcept [.v, .fb, .draw, .pc] s t

/-- The double-draw law (44_display.md, an inference of the spec), for `x, y ≠ F`: the same sprite drawn twice leaves every
cell as it was; the second draw reports a collision iff some plotted cell was 0 before the first, so it does whenever it
plots a cell and "Starting from a clear region". That the second draw reports no collision when all of them were 1 departs from
the spec's unconditional sentence, the next statement (log entry 9). -/
def Obligations.DoubleDrawRestoresTheScreen : Prop :=
  ∀ (s : State) (x y : RegIdx) (n : Fin 16), x ≠ 0xF → y ≠ 0xF → (n = 0 ∨ s.i.toNat + n - 1 ≤ 0xFFF) →
    ∃ t u, exec (.drw x y n) s = .next t ∧ exec (.drw x y n) t = .next u ∧ u.fb = s.fb ∧
      ((∃ c < 2048, Plotted s x y n c ∧ s.fb.cell c = false) → u.getV 0xF = 1) ∧
      ((∀ c < 2048, Plotted s x y n c → s.fb.cell c = true) → u.getV 0xF = 0)

/-- "If at least one sprite bit is 1, the second draw reports `VF = 1`" (44_display.md, the double-draw law), read for every
screen as it is written. EXPECTED TO FAIL: on a screen whose plotted cells are all 1 before the first draw, the second
draw finds them all 0 and the rule of `DRW` gives `VF = 0` (log entry 9). -/
def Obligations.DoubleDrawCollidesOnEveryScreen : Prop :=
  ∀ (s t u : State) (x y : RegIdx) (n : Fin 16), x ≠ 0xF → y ≠ 0xF →
    exec (.drw x y n) s = .next t → exec (.drw x y n) t = .next u → t.fault = none → s.fault = none →
    (∃ row < n.val, s.readByte (s.i.toNat + row) ≠ 0) → u.getV 0xF = 1

/-! ## Keys and timers (spec/45_input_timers.md) -/

/-- `SKP Vx` and `SKNP Vx`: a key is pressed iff its code is at most `0xF` and `KEY` has it; a `V[x]` above `0xF` names no
key and is not pressed (decision D14). -/
def Obligations.KeySkips : Prop :=
  ∀ (s : State) (x : RegIdx),
    SkipsIf (.skp x) (∃ k : KeyCode, (s.getV x).toNat = k.val ∧ s.key[k] = true) s ∧
    SkipsIf (.sknp x) (¬∃ k : KeyCode, (s.getV x).toNat = k.val ∧ s.key[k] = true) s

/-- 45_input_timers.md R212, R214, R215: `V[x] <- DT`; `DT <- V[x]`; `ST <- V[x]`, and "The output `SOUND_ACTIVE` becomes
`V[x] > 0`". -/
def Obligations.TimerTransfers : Prop :=
  ∀ (s : State) (x : RegIdx),
    SetsRegister (.ldVxDt x) x s.dt.toNat s ∧
    (∃ t, exec (.ldDtVx x) s = .next t ∧ t.dt = s.getV x ∧ t.pc = s.pc + 2 ∧ FrameExcept [.dt, .pc] s t) ∧
    (∃ t, exec (.ldStVx x) s = .next t ∧ t.st = s.getV x ∧ (t.soundActive = true ↔ (s.getV x).toNat > 0) ∧
      t.pc = s.pc + 2 ∧ FrameExcept [.st, .pc] s t)

/-- `LD Vx, K` in the step that fetches it (decision D18): a latched key-down goes to `V[x]` at once; with none, the core
enters AwaitingKey for `x` and `PC` stays. -/
def Obligations.KeyWaitTakesTheKeyOrWaits : Prop :=
  ∀ (s : State) (x : RegIdx),
    (∀ k : KeyCode, s.keyLatch = some k → SetsRegister (.ldVxK x) x k.val s) ∧
    (s.keyLatch = none → ∃ t, exec (.ldVxK x) s = .next t ∧ t.wait = some x ∧ FrameExcept [.wait] s t)

/-! ## The host's transactions (spec/10_state.md section 10) -/

/-- 60_exceptions.md R240, `tick_timers`: each timer goes down by 1, "floored at 0", and "The tick reads and writes nothing
else. It runs whether or not `WAIT` is set"; a faulted core ignores it. -/
def Obligations.TickCountsTheTimersDown : Prop :=
  ∀ s : State,
    (s.fault = none → (transact .tickTimers s).1.dt.toNat = s.dt.toNat - 1 ∧
      (transact .tickTimers s).1.st.toNat = s.st.toNat - 1 ∧ FrameExcept [.dt, .st] s (transact .tickTimers s).1) ∧
    (s.fault ≠ none → (transact .tickTimers s).1 = s)

/-- `load(bytes)` (decision D24): an image that fits goes to `M[0x200..]` and changes nothing else, at any length from 0 to
3584; a longer one writes nothing and returns `MemoryFault` with `addr = 0x1000`, and `FAULT` stays none. -/
def Obligations.LoadCopiesTheImageOrRefuses : Prop :=
  ∀ (s : State) (image : List Byte), s.fault = none →
    (image.length ≤ 3584 → ∃ t, transact (.load image) s = (t, .done) ∧
      (∀ (j : Nat) (h : j < image.length), t.readByte (0x200 + j) = image[j]) ∧
      MemExcept 0x200 image.length s t ∧ FrameExcept [.mem] s t) ∧
    (3584 < image.length → transact (.load image) s = (s, .loadError .memoryFault 0x1000))

/-- `set_keys(mask)`, `key_down(k)` and `clear_draw_flag` of a core that is not faulted: "`KEY[k] <- mask[k]` for every `k`",
`KEYLATCH <- k` ("`key_down(k)` does not change `KEY`", decision D18), `DRAW <- false`; each changes nothing else. -/
def Obligations.HostInputsSetTheirOwnState : Prop :=
  ∀ (s : State) (mask : BitVec 16) (key : KeyCode), s.fault = none →
    ((∀ k : KeyCode, (transact (.setKeys mask) s).1.key[k] = mask.getLsbD k) ∧
      FrameExcept [.key] s (transact (.setKeys mask) s).1) ∧
    ((transact (.keyDown key) s).1.keyLatch = some key ∧ FrameExcept [.keyLatch] s (transact (.keyDown key) s).1) ∧
    ((transact .clearDrawFlag s).1.draw = false ∧ FrameExcept [.draw] s (transact .clearDrawFlag s).1)

/-! ## Invariants -/

/-- The invariant holds right after reset, for every legal choice of the parameters and so for the defaults. -/
def Obligations.InvariantHoldsAtReset : Prop :=
  (∀ p : Params, p.Wf → Invariant (State.resetWith p)) ∧ Invariant State.reset

/-- Every step keeps the invariant: memory stays canonical and inside `0x000..0xFFF`, `I` at most `0xFFF`, `PC` at most
`0x10FE`, the stack within its limit and its entries at most `0x1000`, a waiting core on its `Fx0A`, and a fault's record
legal (10_state.md: the spec's inferences on `I`, `PC` and `WAIT`). -/
def Obligations.StepKeepsTheInvariant : Prop :=
  ∀ s t : State, Invariant s → step s = .next t → Invariant t

/-- Every schedule of the host's transactions from the reset of a core with legal parameters leads to a state that meets the
invariant ("A model takes the sequence of transactions as the environment's choice, and quantifies over it", decision
D26). -/
def Obligations.EveryReachableStateMeetsTheInvariant : Prop :=
  ∀ s : State, Reachable s → Invariant s

/-- Every transaction of the host, a step among them, keeps the invariant; with `InvariantHoldsAtReset` it gives
`EveryReachableStateMeetsTheInvariant`. That a reset keeps the parameters is log entry 12. -/
def Obligations.TransactionsKeepTheInvariant : Prop :=
  ∀ (tr : Transaction) (s : State), Invariant s → Invariant (transact tr s).1
end

