-- ==== Sys2Proof/Laws/Memory.lean ====
section
/-! SUPPORT. Memory: a byte reads as last written, every other byte as before, and every write keeps the canonical form. -/

namespace Sys2Proof.Machine.Memory

variable (p : Params) (m : Memory) (a c : Nat) (b : Byte)

@[simp] theorem read_nil : read p [] a = initial p a := rfl

theorem listed_remove_same : listed (remove m a) a = none := by
  induction m with
  | nil => rfl
  | cons cell m ih =>
    obtain ⟨k, w⟩ := cell
    by_cases h : k = a
    · simpa [remove, h] using ih
    · simpa [remove, h, listed, Ne.symm h] using ih

theorem listed_remove_other (h : c ≠ a) : listed (remove m a) c = listed m c := by
  induction m with
  | nil => rfl
  | cons cell m ih =>
    obtain ⟨k, w⟩ := cell
    by_cases hk : k = a
    · subst hk; simpa [remove, listed, h] using ih
    · simp only [remove, hk, listed, List.filter_cons, bne_iff_ne, ne_eq, not_false_eq_true, if_true]
      rw [← ih, remove]

theorem listed_insert_same : listed (insert m a b) a = some b := by
  induction m with
  | nil => simp [insert, listed]
  | cons cell m ih =>
    obtain ⟨k, w⟩ := cell
    simp only [insert]
    split
    · simp [listed]
    · split
      · simp [listed]
      · next _ h => simp [listed, h, ih]

theorem listed_insert_other (h : c ≠ a) : listed (insert m a b) c = listed m c := by
  induction m with
  | nil => simp [insert, listed, h]
  | cons cell m ih =>
    obtain ⟨k, w⟩ := cell
    simp only [insert]
    split
    · simp [listed, h]
    · split
      · next _ hk => subst hk; simp [listed, h]
      · simp [listed, ih]

/-- A byte reads as it was last written. -/
theorem read_write_same : read p (write p m a b) a = b := by
  simp only [write]
  split
  · next h => simp [read, listed_remove_same, h]
  · simp [read, listed_insert_same]

/-- A write leaves every other byte alone. -/
theorem read_write_other (h : c ≠ a) : read p (write p m a b) c = read p m c := by
  simp only [write]
  split
  · simp [read, listed_remove_other m a c h]
  · simp [read, listed_insert_other m a c b h]

@[simp] theorem read_write : read p (write p m a b) c = if c = a then b else read p m c := by
  split
  · next h => rw [h, read_write_same]
  · next h => rw [read_write_other p m a c b h]

theorem mem_insert {cell : Host.Cell} (h : cell ∈ insert m a b) : cell = (a, b) ∨ cell ∈ m := by
  induction m with
  | nil => simpa [insert] using h
  | cons d m ih =>
    obtain ⟨k, w⟩ := d
    simp only [insert] at h
    split at h
    · simpa using h
    · split at h
      · rcases List.mem_cons.1 h with h | h <;> simp [h]
      · rcases List.mem_cons.1 h with h | h
        · simp [h]
        · rcases ih h with h | h <;> simp [h]

theorem insert_rising (h : m.Pairwise (fun c d => c.1 < d.1)) :
    (insert m a b).Pairwise (fun c d => c.1 < d.1) := by
  induction m with
  | nil => simp [insert]
  | cons cell m ih =>
    obtain ⟨k, w⟩ := cell
    obtain ⟨hk, hm⟩ := List.pairwise_cons.1 h
    simp only [insert]
    split
    · next hlt =>
      refine List.pairwise_cons.2 ⟨fun d hd => ?_, h⟩
      rcases List.mem_cons.1 hd with rfl | hd
      · exact hlt
      · exact lt_trans hlt (hk d hd)
    · split
      · next _ heq => subst heq; exact List.pairwise_cons.2 ⟨hk, hm⟩
      · next hge hne =>
        refine List.pairwise_cons.2 ⟨fun d hd => ?_, ih hm⟩
        rcases mem_insert m a b hd with rfl | hd
        · show k < a
          omega
        · exact hk d hd

theorem wf_nil : wf p [] := ⟨List.Pairwise.nil, by simp⟩

/-- A write inside memory keeps the canonical form. -/
theorem wf_write (h : wf p m) (ha : a < memSize) : wf p (write p m a b) := by
  obtain ⟨hr, hc⟩ := h
  simp only [write]
  split
  · exact ⟨hr.filter _, fun d hd => hc d (List.mem_of_mem_filter hd)⟩
  · next hb =>
    refine ⟨insert_rising m a b hr, fun d hd => ?_⟩
    rcases mem_insert m a b hd with rfl | hd
    · exact ⟨ha, hb⟩
    · exact hc d hd

end Sys2Proof.Machine.Memory
end

