-- ==== Sys2Proof/Laws/State.lean ====
section
/-! SUPPORT. One lemma per field per update of State, each true by rfl, so that no proof unfolds a record update; and what
each update leaves of the register and memory reads. -/

namespace Sys2Proof.Machine.State

variable (s : State)

/-! ### `setV` -/

@[simp] theorem setV_v (x : RegIdx) (b : Byte) : (s.setV x b).v = s.v.set x b := rfl
@[simp] theorem setV_i (x : RegIdx) (b : Byte) : (s.setV x b).i = s.i := rfl
@[simp] theorem setV_pc (x : RegIdx) (b : Byte) : (s.setV x b).pc = s.pc := rfl
@[simp] theorem setV_stack (x : RegIdx) (b : Byte) : (s.setV x b).stack = s.stack := rfl
@[simp] theorem setV_dt (x : RegIdx) (b : Byte) : (s.setV x b).dt = s.dt := rfl
@[simp] theorem setV_st (x : RegIdx) (b : Byte) : (s.setV x b).st = s.st := rfl
@[simp] theorem setV_mem (x : RegIdx) (b : Byte) : (s.setV x b).mem = s.mem := rfl
@[simp] theorem setV_fb (x : RegIdx) (b : Byte) : (s.setV x b).fb = s.fb := rfl
@[simp] theorem setV_draw (x : RegIdx) (b : Byte) : (s.setV x b).draw = s.draw := rfl
@[simp] theorem setV_key (x : RegIdx) (b : Byte) : (s.setV x b).key = s.key := rfl
@[simp] theorem setV_keyLatch (x : RegIdx) (b : Byte) : (s.setV x b).keyLatch = s.keyLatch := rfl
@[simp] theorem setV_wait (x : RegIdx) (b : Byte) : (s.setV x b).wait = s.wait := rfl
@[simp] theorem setV_ir (x : RegIdx) (b : Byte) : (s.setV x b).ir = s.ir := rfl
@[simp] theorem setV_fault (x : RegIdx) (b : Byte) : (s.setV x b).fault = s.fault := rfl
@[simp] theorem setV_params (x : RegIdx) (b : Byte) : (s.setV x b).params = s.params := rfl
@[simp] theorem setV_draws (x : RegIdx) (b : Byte) : (s.setV x b).draws = s.draws := rfl
@[simp] theorem setV_readByte (x : RegIdx) (b : Byte) (a : Nat) : (s.setV x b).readByte a = s.readByte a := rfl
@[simp] theorem setV_sp (x : RegIdx) (b : Byte) : (s.setV x b).sp = s.sp := rfl

/-! ### `setI` -/

@[simp] theorem setI_v (w : Word) : (s.setI w).v = s.v := rfl
@[simp] theorem setI_i (w : Word) : (s.setI w).i = w := rfl
@[simp] theorem setI_pc (w : Word) : (s.setI w).pc = s.pc := rfl
@[simp] theorem setI_stack (w : Word) : (s.setI w).stack = s.stack := rfl
@[simp] theorem setI_dt (w : Word) : (s.setI w).dt = s.dt := rfl
@[simp] theorem setI_st (w : Word) : (s.setI w).st = s.st := rfl
@[simp] theorem setI_mem (w : Word) : (s.setI w).mem = s.mem := rfl
@[simp] theorem setI_fb (w : Word) : (s.setI w).fb = s.fb := rfl
@[simp] theorem setI_draw (w : Word) : (s.setI w).draw = s.draw := rfl
@[simp] theorem setI_key (w : Word) : (s.setI w).key = s.key := rfl
@[simp] theorem setI_keyLatch (w : Word) : (s.setI w).keyLatch = s.keyLatch := rfl
@[simp] theorem setI_wait (w : Word) : (s.setI w).wait = s.wait := rfl
@[simp] theorem setI_ir (w : Word) : (s.setI w).ir = s.ir := rfl
@[simp] theorem setI_fault (w : Word) : (s.setI w).fault = s.fault := rfl
@[simp] theorem setI_params (w : Word) : (s.setI w).params = s.params := rfl
@[simp] theorem setI_draws (w : Word) : (s.setI w).draws = s.draws := rfl
@[simp] theorem setI_getV (w : Word) (q : RegIdx) : (s.setI w).getV q = s.getV q := rfl
@[simp] theorem setI_readByte (w : Word) (a : Nat) : (s.setI w).readByte a = s.readByte a := rfl
@[simp] theorem setI_sp (w : Word) : (s.setI w).sp = s.sp := rfl

/-! ### `setPc` -/

@[simp] theorem setPc_v (w : Word) : (s.setPc w).v = s.v := rfl
@[simp] theorem setPc_i (w : Word) : (s.setPc w).i = s.i := rfl
@[simp] theorem setPc_pc (w : Word) : (s.setPc w).pc = w := rfl
@[simp] theorem setPc_stack (w : Word) : (s.setPc w).stack = s.stack := rfl
@[simp] theorem setPc_dt (w : Word) : (s.setPc w).dt = s.dt := rfl
@[simp] theorem setPc_st (w : Word) : (s.setPc w).st = s.st := rfl
@[simp] theorem setPc_mem (w : Word) : (s.setPc w).mem = s.mem := rfl
@[simp] theorem setPc_fb (w : Word) : (s.setPc w).fb = s.fb := rfl
@[simp] theorem setPc_draw (w : Word) : (s.setPc w).draw = s.draw := rfl
@[simp] theorem setPc_key (w : Word) : (s.setPc w).key = s.key := rfl
@[simp] theorem setPc_keyLatch (w : Word) : (s.setPc w).keyLatch = s.keyLatch := rfl
@[simp] theorem setPc_wait (w : Word) : (s.setPc w).wait = s.wait := rfl
@[simp] theorem setPc_ir (w : Word) : (s.setPc w).ir = s.ir := rfl
@[simp] theorem setPc_fault (w : Word) : (s.setPc w).fault = s.fault := rfl
@[simp] theorem setPc_params (w : Word) : (s.setPc w).params = s.params := rfl
@[simp] theorem setPc_draws (w : Word) : (s.setPc w).draws = s.draws := rfl
@[simp] theorem setPc_getV (w : Word) (q : RegIdx) : (s.setPc w).getV q = s.getV q := rfl
@[simp] theorem setPc_readByte (w : Word) (a : Nat) : (s.setPc w).readByte a = s.readByte a := rfl
@[simp] theorem setPc_sp (w : Word) : (s.setPc w).sp = s.sp := rfl

/-! ### `setStack` -/

@[simp] theorem setStack_v (l : List Word) : (s.setStack l).v = s.v := rfl
@[simp] theorem setStack_i (l : List Word) : (s.setStack l).i = s.i := rfl
@[simp] theorem setStack_pc (l : List Word) : (s.setStack l).pc = s.pc := rfl
@[simp] theorem setStack_stack (l : List Word) : (s.setStack l).stack = l := rfl
@[simp] theorem setStack_dt (l : List Word) : (s.setStack l).dt = s.dt := rfl
@[simp] theorem setStack_st (l : List Word) : (s.setStack l).st = s.st := rfl
@[simp] theorem setStack_mem (l : List Word) : (s.setStack l).mem = s.mem := rfl
@[simp] theorem setStack_fb (l : List Word) : (s.setStack l).fb = s.fb := rfl
@[simp] theorem setStack_draw (l : List Word) : (s.setStack l).draw = s.draw := rfl
@[simp] theorem setStack_key (l : List Word) : (s.setStack l).key = s.key := rfl
@[simp] theorem setStack_keyLatch (l : List Word) : (s.setStack l).keyLatch = s.keyLatch := rfl
@[simp] theorem setStack_wait (l : List Word) : (s.setStack l).wait = s.wait := rfl
@[simp] theorem setStack_ir (l : List Word) : (s.setStack l).ir = s.ir := rfl
@[simp] theorem setStack_fault (l : List Word) : (s.setStack l).fault = s.fault := rfl
@[simp] theorem setStack_params (l : List Word) : (s.setStack l).params = s.params := rfl
@[simp] theorem setStack_draws (l : List Word) : (s.setStack l).draws = s.draws := rfl
@[simp] theorem setStack_getV (l : List Word) (q : RegIdx) : (s.setStack l).getV q = s.getV q := rfl
@[simp] theorem setStack_readByte (l : List Word) (a : Nat) : (s.setStack l).readByte a = s.readByte a := rfl

/-! ### `setDt` -/

@[simp] theorem setDt_v (b : Byte) : (s.setDt b).v = s.v := rfl
@[simp] theorem setDt_i (b : Byte) : (s.setDt b).i = s.i := rfl
@[simp] theorem setDt_pc (b : Byte) : (s.setDt b).pc = s.pc := rfl
@[simp] theorem setDt_stack (b : Byte) : (s.setDt b).stack = s.stack := rfl
@[simp] theorem setDt_dt (b : Byte) : (s.setDt b).dt = b := rfl
@[simp] theorem setDt_st (b : Byte) : (s.setDt b).st = s.st := rfl
@[simp] theorem setDt_mem (b : Byte) : (s.setDt b).mem = s.mem := rfl
@[simp] theorem setDt_fb (b : Byte) : (s.setDt b).fb = s.fb := rfl
@[simp] theorem setDt_draw (b : Byte) : (s.setDt b).draw = s.draw := rfl
@[simp] theorem setDt_key (b : Byte) : (s.setDt b).key = s.key := rfl
@[simp] theorem setDt_keyLatch (b : Byte) : (s.setDt b).keyLatch = s.keyLatch := rfl
@[simp] theorem setDt_wait (b : Byte) : (s.setDt b).wait = s.wait := rfl
@[simp] theorem setDt_ir (b : Byte) : (s.setDt b).ir = s.ir := rfl
@[simp] theorem setDt_fault (b : Byte) : (s.setDt b).fault = s.fault := rfl
@[simp] theorem setDt_params (b : Byte) : (s.setDt b).params = s.params := rfl
@[simp] theorem setDt_draws (b : Byte) : (s.setDt b).draws = s.draws := rfl
@[simp] theorem setDt_getV (b : Byte) (q : RegIdx) : (s.setDt b).getV q = s.getV q := rfl
@[simp] theorem setDt_readByte (b : Byte) (a : Nat) : (s.setDt b).readByte a = s.readByte a := rfl
@[simp] theorem setDt_sp (b : Byte) : (s.setDt b).sp = s.sp := rfl

/-! ### `setSt` -/

@[simp] theorem setSt_v (b : Byte) : (s.setSt b).v = s.v := rfl
@[simp] theorem setSt_i (b : Byte) : (s.setSt b).i = s.i := rfl
@[simp] theorem setSt_pc (b : Byte) : (s.setSt b).pc = s.pc := rfl
@[simp] theorem setSt_stack (b : Byte) : (s.setSt b).stack = s.stack := rfl
@[simp] theorem setSt_dt (b : Byte) : (s.setSt b).dt = s.dt := rfl
@[simp] theorem setSt_st (b : Byte) : (s.setSt b).st = b := rfl
@[simp] theorem setSt_mem (b : Byte) : (s.setSt b).mem = s.mem := rfl
@[simp] theorem setSt_fb (b : Byte) : (s.setSt b).fb = s.fb := rfl
@[simp] theorem setSt_draw (b : Byte) : (s.setSt b).draw = s.draw := rfl
@[simp] theorem setSt_key (b : Byte) : (s.setSt b).key = s.key := rfl
@[simp] theorem setSt_keyLatch (b : Byte) : (s.setSt b).keyLatch = s.keyLatch := rfl
@[simp] theorem setSt_wait (b : Byte) : (s.setSt b).wait = s.wait := rfl
@[simp] theorem setSt_ir (b : Byte) : (s.setSt b).ir = s.ir := rfl
@[simp] theorem setSt_fault (b : Byte) : (s.setSt b).fault = s.fault := rfl
@[simp] theorem setSt_params (b : Byte) : (s.setSt b).params = s.params := rfl
@[simp] theorem setSt_draws (b : Byte) : (s.setSt b).draws = s.draws := rfl
@[simp] theorem setSt_getV (b : Byte) (q : RegIdx) : (s.setSt b).getV q = s.getV q := rfl
@[simp] theorem setSt_readByte (b : Byte) (a : Nat) : (s.setSt b).readByte a = s.readByte a := rfl
@[simp] theorem setSt_sp (b : Byte) : (s.setSt b).sp = s.sp := rfl

/-! ### `setMem` -/

@[simp] theorem setMem_v (m : Memory) : (s.setMem m).v = s.v := rfl
@[simp] theorem setMem_i (m : Memory) : (s.setMem m).i = s.i := rfl
@[simp] theorem setMem_pc (m : Memory) : (s.setMem m).pc = s.pc := rfl
@[simp] theorem setMem_stack (m : Memory) : (s.setMem m).stack = s.stack := rfl
@[simp] theorem setMem_dt (m : Memory) : (s.setMem m).dt = s.dt := rfl
@[simp] theorem setMem_st (m : Memory) : (s.setMem m).st = s.st := rfl
@[simp] theorem setMem_mem (m : Memory) : (s.setMem m).mem = m := rfl
@[simp] theorem setMem_fb (m : Memory) : (s.setMem m).fb = s.fb := rfl
@[simp] theorem setMem_draw (m : Memory) : (s.setMem m).draw = s.draw := rfl
@[simp] theorem setMem_key (m : Memory) : (s.setMem m).key = s.key := rfl
@[simp] theorem setMem_keyLatch (m : Memory) : (s.setMem m).keyLatch = s.keyLatch := rfl
@[simp] theorem setMem_wait (m : Memory) : (s.setMem m).wait = s.wait := rfl
@[simp] theorem setMem_ir (m : Memory) : (s.setMem m).ir = s.ir := rfl
@[simp] theorem setMem_fault (m : Memory) : (s.setMem m).fault = s.fault := rfl
@[simp] theorem setMem_params (m : Memory) : (s.setMem m).params = s.params := rfl
@[simp] theorem setMem_draws (m : Memory) : (s.setMem m).draws = s.draws := rfl
@[simp] theorem setMem_getV (m : Memory) (q : RegIdx) : (s.setMem m).getV q = s.getV q := rfl
@[simp] theorem setMem_sp (m : Memory) : (s.setMem m).sp = s.sp := rfl

/-! ### `setFb` -/

@[simp] theorem setFb_v (f : Framebuffer) : (s.setFb f).v = s.v := rfl
@[simp] theorem setFb_i (f : Framebuffer) : (s.setFb f).i = s.i := rfl
@[simp] theorem setFb_pc (f : Framebuffer) : (s.setFb f).pc = s.pc := rfl
@[simp] theorem setFb_stack (f : Framebuffer) : (s.setFb f).stack = s.stack := rfl
@[simp] theorem setFb_dt (f : Framebuffer) : (s.setFb f).dt = s.dt := rfl
@[simp] theorem setFb_st (f : Framebuffer) : (s.setFb f).st = s.st := rfl
@[simp] theorem setFb_mem (f : Framebuffer) : (s.setFb f).mem = s.mem := rfl
@[simp] theorem setFb_fb (f : Framebuffer) : (s.setFb f).fb = f := rfl
@[simp] theorem setFb_draw (f : Framebuffer) : (s.setFb f).draw = s.draw := rfl
@[simp] theorem setFb_key (f : Framebuffer) : (s.setFb f).key = s.key := rfl
@[simp] theorem setFb_keyLatch (f : Framebuffer) : (s.setFb f).keyLatch = s.keyLatch := rfl
@[simp] theorem setFb_wait (f : Framebuffer) : (s.setFb f).wait = s.wait := rfl
@[simp] theorem setFb_ir (f : Framebuffer) : (s.setFb f).ir = s.ir := rfl
@[simp] theorem setFb_fault (f : Framebuffer) : (s.setFb f).fault = s.fault := rfl
@[simp] theorem setFb_params (f : Framebuffer) : (s.setFb f).params = s.params := rfl
@[simp] theorem setFb_draws (f : Framebuffer) : (s.setFb f).draws = s.draws := rfl
@[simp] theorem setFb_getV (f : Framebuffer) (q : RegIdx) : (s.setFb f).getV q = s.getV q := rfl
@[simp] theorem setFb_readByte (f : Framebuffer) (a : Nat) : (s.setFb f).readByte a = s.readByte a := rfl
@[simp] theorem setFb_sp (f : Framebuffer) : (s.setFb f).sp = s.sp := rfl

/-! ### `setDraw` -/

@[simp] theorem setDraw_v (d : Bool) : (s.setDraw d).v = s.v := rfl
@[simp] theorem setDraw_i (d : Bool) : (s.setDraw d).i = s.i := rfl
@[simp] theorem setDraw_pc (d : Bool) : (s.setDraw d).pc = s.pc := rfl
@[simp] theorem setDraw_stack (d : Bool) : (s.setDraw d).stack = s.stack := rfl
@[simp] theorem setDraw_dt (d : Bool) : (s.setDraw d).dt = s.dt := rfl
@[simp] theorem setDraw_st (d : Bool) : (s.setDraw d).st = s.st := rfl
@[simp] theorem setDraw_mem (d : Bool) : (s.setDraw d).mem = s.mem := rfl
@[simp] theorem setDraw_fb (d : Bool) : (s.setDraw d).fb = s.fb := rfl
@[simp] theorem setDraw_draw (d : Bool) : (s.setDraw d).draw = d := rfl
@[simp] theorem setDraw_key (d : Bool) : (s.setDraw d).key = s.key := rfl
@[simp] theorem setDraw_keyLatch (d : Bool) : (s.setDraw d).keyLatch = s.keyLatch := rfl
@[simp] theorem setDraw_wait (d : Bool) : (s.setDraw d).wait = s.wait := rfl
@[simp] theorem setDraw_ir (d : Bool) : (s.setDraw d).ir = s.ir := rfl
@[simp] theorem setDraw_fault (d : Bool) : (s.setDraw d).fault = s.fault := rfl
@[simp] theorem setDraw_params (d : Bool) : (s.setDraw d).params = s.params := rfl
@[simp] theorem setDraw_draws (d : Bool) : (s.setDraw d).draws = s.draws := rfl
@[simp] theorem setDraw_getV (d : Bool) (q : RegIdx) : (s.setDraw d).getV q = s.getV q := rfl
@[simp] theorem setDraw_readByte (d : Bool) (a : Nat) : (s.setDraw d).readByte a = s.readByte a := rfl
@[simp] theorem setDraw_sp (d : Bool) : (s.setDraw d).sp = s.sp := rfl

/-! ### `setKey` -/

@[simp] theorem setKey_v (k : Vector Bool 16) : (s.setKey k).v = s.v := rfl
@[simp] theorem setKey_i (k : Vector Bool 16) : (s.setKey k).i = s.i := rfl
@[simp] theorem setKey_pc (k : Vector Bool 16) : (s.setKey k).pc = s.pc := rfl
@[simp] theorem setKey_stack (k : Vector Bool 16) : (s.setKey k).stack = s.stack := rfl
@[simp] theorem setKey_dt (k : Vector Bool 16) : (s.setKey k).dt = s.dt := rfl
@[simp] theorem setKey_st (k : Vector Bool 16) : (s.setKey k).st = s.st := rfl
@[simp] theorem setKey_mem (k : Vector Bool 16) : (s.setKey k).mem = s.mem := rfl
@[simp] theorem setKey_fb (k : Vector Bool 16) : (s.setKey k).fb = s.fb := rfl
@[simp] theorem setKey_draw (k : Vector Bool 16) : (s.setKey k).draw = s.draw := rfl
@[simp] theorem setKey_key (k : Vector Bool 16) : (s.setKey k).key = k := rfl
@[simp] theorem setKey_keyLatch (k : Vector Bool 16) : (s.setKey k).keyLatch = s.keyLatch := rfl
@[simp] theorem setKey_wait (k : Vector Bool 16) : (s.setKey k).wait = s.wait := rfl
@[simp] theorem setKey_ir (k : Vector Bool 16) : (s.setKey k).ir = s.ir := rfl
@[simp] theorem setKey_fault (k : Vector Bool 16) : (s.setKey k).fault = s.fault := rfl
@[simp] theorem setKey_params (k : Vector Bool 16) : (s.setKey k).params = s.params := rfl
@[simp] theorem setKey_draws (k : Vector Bool 16) : (s.setKey k).draws = s.draws := rfl
@[simp] theorem setKey_getV (k : Vector Bool 16) (q : RegIdx) : (s.setKey k).getV q = s.getV q := rfl
@[simp] theorem setKey_readByte (k : Vector Bool 16) (a : Nat) : (s.setKey k).readByte a = s.readByte a := rfl
@[simp] theorem setKey_sp (k : Vector Bool 16) : (s.setKey k).sp = s.sp := rfl

/-! ### `setKeyLatch` -/

@[simp] theorem setKeyLatch_v (k : Option KeyCode) : (s.setKeyLatch k).v = s.v := rfl
@[simp] theorem setKeyLatch_i (k : Option KeyCode) : (s.setKeyLatch k).i = s.i := rfl
@[simp] theorem setKeyLatch_pc (k : Option KeyCode) : (s.setKeyLatch k).pc = s.pc := rfl
@[simp] theorem setKeyLatch_stack (k : Option KeyCode) : (s.setKeyLatch k).stack = s.stack := rfl
@[simp] theorem setKeyLatch_dt (k : Option KeyCode) : (s.setKeyLatch k).dt = s.dt := rfl
@[simp] theorem setKeyLatch_st (k : Option KeyCode) : (s.setKeyLatch k).st = s.st := rfl
@[simp] theorem setKeyLatch_mem (k : Option KeyCode) : (s.setKeyLatch k).mem = s.mem := rfl
@[simp] theorem setKeyLatch_fb (k : Option KeyCode) : (s.setKeyLatch k).fb = s.fb := rfl
@[simp] theorem setKeyLatch_draw (k : Option KeyCode) : (s.setKeyLatch k).draw = s.draw := rfl
@[simp] theorem setKeyLatch_key (k : Option KeyCode) : (s.setKeyLatch k).key = s.key := rfl
@[simp] theorem setKeyLatch_keyLatch (k : Option KeyCode) : (s.setKeyLatch k).keyLatch = k := rfl
@[simp] theorem setKeyLatch_wait (k : Option KeyCode) : (s.setKeyLatch k).wait = s.wait := rfl
@[simp] theorem setKeyLatch_ir (k : Option KeyCode) : (s.setKeyLatch k).ir = s.ir := rfl
@[simp] theorem setKeyLatch_fault (k : Option KeyCode) : (s.setKeyLatch k).fault = s.fault := rfl
@[simp] theorem setKeyLatch_params (k : Option KeyCode) : (s.setKeyLatch k).params = s.params := rfl
@[simp] theorem setKeyLatch_draws (k : Option KeyCode) : (s.setKeyLatch k).draws = s.draws := rfl
@[simp] theorem setKeyLatch_getV (k : Option KeyCode) (q : RegIdx) : (s.setKeyLatch k).getV q = s.getV q := rfl
@[simp] theorem setKeyLatch_readByte (k : Option KeyCode) (a : Nat) : (s.setKeyLatch k).readByte a = s.readByte a := rfl
@[simp] theorem setKeyLatch_sp (k : Option KeyCode) : (s.setKeyLatch k).sp = s.sp := rfl

/-! ### `setWait` -/

@[simp] theorem setWait_v (w : Option RegIdx) : (s.setWait w).v = s.v := rfl
@[simp] theorem setWait_i (w : Option RegIdx) : (s.setWait w).i = s.i := rfl
@[simp] theorem setWait_pc (w : Option RegIdx) : (s.setWait w).pc = s.pc := rfl
@[simp] theorem setWait_stack (w : Option RegIdx) : (s.setWait w).stack = s.stack := rfl
@[simp] theorem setWait_dt (w : Option RegIdx) : (s.setWait w).dt = s.dt := rfl
@[simp] theorem setWait_st (w : Option RegIdx) : (s.setWait w).st = s.st := rfl
@[simp] theorem setWait_mem (w : Option RegIdx) : (s.setWait w).mem = s.mem := rfl
@[simp] theorem setWait_fb (w : Option RegIdx) : (s.setWait w).fb = s.fb := rfl
@[simp] theorem setWait_draw (w : Option RegIdx) : (s.setWait w).draw = s.draw := rfl
@[simp] theorem setWait_key (w : Option RegIdx) : (s.setWait w).key = s.key := rfl
@[simp] theorem setWait_keyLatch (w : Option RegIdx) : (s.setWait w).keyLatch = s.keyLatch := rfl
@[simp] theorem setWait_wait (w : Option RegIdx) : (s.setWait w).wait = w := rfl
@[simp] theorem setWait_ir (w : Option RegIdx) : (s.setWait w).ir = s.ir := rfl
@[simp] theorem setWait_fault (w : Option RegIdx) : (s.setWait w).fault = s.fault := rfl
@[simp] theorem setWait_params (w : Option RegIdx) : (s.setWait w).params = s.params := rfl
@[simp] theorem setWait_draws (w : Option RegIdx) : (s.setWait w).draws = s.draws := rfl
@[simp] theorem setWait_getV (w : Option RegIdx) (q : RegIdx) : (s.setWait w).getV q = s.getV q := rfl
@[simp] theorem setWait_readByte (w : Option RegIdx) (a : Nat) : (s.setWait w).readByte a = s.readByte a := rfl
@[simp] theorem setWait_sp (w : Option RegIdx) : (s.setWait w).sp = s.sp := rfl

/-! ### `setIr` -/

@[simp] theorem setIr_v (w : Word) : (s.setIr w).v = s.v := rfl
@[simp] theorem setIr_i (w : Word) : (s.setIr w).i = s.i := rfl
@[simp] theorem setIr_pc (w : Word) : (s.setIr w).pc = s.pc := rfl
@[simp] theorem setIr_stack (w : Word) : (s.setIr w).stack = s.stack := rfl
@[simp] theorem setIr_dt (w : Word) : (s.setIr w).dt = s.dt := rfl
@[simp] theorem setIr_st (w : Word) : (s.setIr w).st = s.st := rfl
@[simp] theorem setIr_mem (w : Word) : (s.setIr w).mem = s.mem := rfl
@[simp] theorem setIr_fb (w : Word) : (s.setIr w).fb = s.fb := rfl
@[simp] theorem setIr_draw (w : Word) : (s.setIr w).draw = s.draw := rfl
@[simp] theorem setIr_key (w : Word) : (s.setIr w).key = s.key := rfl
@[simp] theorem setIr_keyLatch (w : Word) : (s.setIr w).keyLatch = s.keyLatch := rfl
@[simp] theorem setIr_wait (w : Word) : (s.setIr w).wait = s.wait := rfl
@[simp] theorem setIr_ir (w : Word) : (s.setIr w).ir = w := rfl
@[simp] theorem setIr_fault (w : Word) : (s.setIr w).fault = s.fault := rfl
@[simp] theorem setIr_params (w : Word) : (s.setIr w).params = s.params := rfl
@[simp] theorem setIr_draws (w : Word) : (s.setIr w).draws = s.draws := rfl
@[simp] theorem setIr_getV (w : Word) (q : RegIdx) : (s.setIr w).getV q = s.getV q := rfl
@[simp] theorem setIr_readByte (w : Word) (a : Nat) : (s.setIr w).readByte a = s.readByte a := rfl
@[simp] theorem setIr_sp (w : Word) : (s.setIr w).sp = s.sp := rfl

/-! ### `setFault` -/

@[simp] theorem setFault_v (r : Option FaultRecord) : (s.setFault r).v = s.v := rfl
@[simp] theorem setFault_i (r : Option FaultRecord) : (s.setFault r).i = s.i := rfl
@[simp] theorem setFault_pc (r : Option FaultRecord) : (s.setFault r).pc = s.pc := rfl
@[simp] theorem setFault_stack (r : Option FaultRecord) : (s.setFault r).stack = s.stack := rfl
@[simp] theorem setFault_dt (r : Option FaultRecord) : (s.setFault r).dt = s.dt := rfl
@[simp] theorem setFault_st (r : Option FaultRecord) : (s.setFault r).st = s.st := rfl
@[simp] theorem setFault_mem (r : Option FaultRecord) : (s.setFault r).mem = s.mem := rfl
@[simp] theorem setFault_fb (r : Option FaultRecord) : (s.setFault r).fb = s.fb := rfl
@[simp] theorem setFault_draw (r : Option FaultRecord) : (s.setFault r).draw = s.draw := rfl
@[simp] theorem setFault_key (r : Option FaultRecord) : (s.setFault r).key = s.key := rfl
@[simp] theorem setFault_keyLatch (r : Option FaultRecord) : (s.setFault r).keyLatch = s.keyLatch := rfl
@[simp] theorem setFault_wait (r : Option FaultRecord) : (s.setFault r).wait = s.wait := rfl
@[simp] theorem setFault_ir (r : Option FaultRecord) : (s.setFault r).ir = s.ir := rfl
@[simp] theorem setFault_fault (r : Option FaultRecord) : (s.setFault r).fault = r := rfl
@[simp] theorem setFault_params (r : Option FaultRecord) : (s.setFault r).params = s.params := rfl
@[simp] theorem setFault_draws (r : Option FaultRecord) : (s.setFault r).draws = s.draws := rfl
@[simp] theorem setFault_getV (r : Option FaultRecord) (q : RegIdx) : (s.setFault r).getV q = s.getV q := rfl
@[simp] theorem setFault_readByte (r : Option FaultRecord) (a : Nat) : (s.setFault r).readByte a = s.readByte a := rfl
@[simp] theorem setFault_sp (r : Option FaultRecord) : (s.setFault r).sp = s.sp := rfl

/-! ### `countDraw` -/

@[simp] theorem countDraw_v : (s.countDraw).v = s.v := rfl
@[simp] theorem countDraw_i : (s.countDraw).i = s.i := rfl
@[simp] theorem countDraw_pc : (s.countDraw).pc = s.pc := rfl
@[simp] theorem countDraw_stack : (s.countDraw).stack = s.stack := rfl
@[simp] theorem countDraw_dt : (s.countDraw).dt = s.dt := rfl
@[simp] theorem countDraw_st : (s.countDraw).st = s.st := rfl
@[simp] theorem countDraw_mem : (s.countDraw).mem = s.mem := rfl
@[simp] theorem countDraw_fb : (s.countDraw).fb = s.fb := rfl
@[simp] theorem countDraw_draw : (s.countDraw).draw = s.draw := rfl
@[simp] theorem countDraw_key : (s.countDraw).key = s.key := rfl
@[simp] theorem countDraw_keyLatch : (s.countDraw).keyLatch = s.keyLatch := rfl
@[simp] theorem countDraw_wait : (s.countDraw).wait = s.wait := rfl
@[simp] theorem countDraw_ir : (s.countDraw).ir = s.ir := rfl
@[simp] theorem countDraw_fault : (s.countDraw).fault = s.fault := rfl
@[simp] theorem countDraw_params : (s.countDraw).params = s.params := rfl
@[simp] theorem countDraw_draws : (s.countDraw).draws = s.draws + 1 := rfl
@[simp] theorem countDraw_getV (q : RegIdx) : (s.countDraw).getV q = s.getV q := rfl
@[simp] theorem countDraw_readByte (a : Nat) : (s.countDraw).readByte a = s.readByte a := rfl
@[simp] theorem countDraw_sp : (s.countDraw).sp = s.sp := rfl

/-! ### Reading a register after a write -/

@[simp] theorem setV_getV (x : RegIdx) (b : Byte) (r : RegIdx) :
    (s.setV x b).getV r = if r = x then b else s.getV r := by
  simp only [getV, setV, Fin.getElem_fin, Vector.getElem_set, Fin.val_inj, eq_comm]

theorem setV_getV_same (x : RegIdx) (b : Byte) : (s.setV x b).getV x = b := by simp

theorem setV_getV_other (x : RegIdx) (b : Byte) (r : RegIdx) (h : r ≠ x) : (s.setV x b).getV r = s.getV r := by simp [h]

/-- Two register files that read alike are equal. -/
theorem v_ext {s t : State} (h : ∀ r, t.getV r = s.getV r) : t.v = s.v := by
  apply Vector.ext
  intro k hk
  exact h ⟨k, hk⟩

/-! ### Reset -/

@[simp] theorem resetWith_getV (p : Params) (r : RegIdx) : (resetWith p).getV r = 0 := by
  simp [getV, resetWith]

end Sys2Proof.Machine.State
end

