-- ==== Sys2Proof/Laws/Ops.lean ====
section
/-! SUPPORT. One lemma per shared operation, saying all it does: proofs cite these and do not unfold the operation. -/

namespace Sys2Proof.Machine

namespace State

/-! ### Memory bytes -/

@[simp] theorem readByte_writeByte (s : State) (a c : Nat) (b : Byte) :
    (s.writeByte a b).readByte c = if c = a then b else s.readByte c := by
  simp [writeByte, readByte]

/-- `writeBytes` changes memory and nothing else. -/
theorem writeBytes_eq_setMem (s : State) (a : Nat) (bs : List Byte) :
    s.writeBytes a bs = s.setMem (s.writeBytes a bs).mem := by
  induction bs generalizing s a with
  | nil => rfl
  | cons b bs ih => rw [writeBytes, ih]; rfl

/-- A byte inside the written range reads as the byte written there. -/
theorem readByte_writeBytes_inside (s : State) (a : Nat) (bs : List Byte) (k : Nat) (h : k < bs.length) :
    (s.writeBytes a bs).readByte (a + k) = bs[k] := by
  induction bs generalizing s a k with
  | nil => simp at h
  | cons b bs ih =>
    cases k with
    | zero =>
      have outside : ∀ (t : State) (c : Nat) (l : List Byte), a < c → (t.writeBytes c l).readByte a = t.readByte a := by
        intro t c l
        induction l generalizing t c with
        | nil => intro _; rfl
        | cons d l ihl =>
          intro hc
          rw [writeBytes, ihl _ _ (by omega)]
          simp [show a ≠ c by omega]
      simp [writeBytes, outside]
    | succ k =>
      have := ih (s.writeByte a b) (a + 1) k (by simpa using h)
      simpa [writeBytes, Nat.add_assoc, Nat.add_comm 1 k] using this

/-- A byte outside the written range reads as before. -/
theorem readByte_writeBytes_outside (s : State) (a : Nat) (bs : List Byte) (c : Nat)
    (h : ¬(a ≤ c ∧ c < a + bs.length)) : (s.writeBytes a bs).readByte c = s.readByte c := by
  induction bs generalizing s a with
  | nil => rfl
  | cons b bs ih =>
    simp only [List.length_cons] at h
    rw [writeBytes, ih _ _ (by omega)]
    simp [show c ≠ a by omega]

/-- Writes inside memory keep its canonical form. -/
theorem writeBytes_wf (s : State) (a : Nat) (bs : List Byte) (h : Memory.wf s.params s.mem)
    (fits : a + bs.length ≤ memSize) : Memory.wf s.params (s.writeBytes a bs).mem := by
  induction bs generalizing s a with
  | nil => exact h
  | cons b bs ih =>
    simp only [List.length_cons] at fits
    exact ih (s.writeByte a b) (a + 1) (Memory.wf_write s.params s.mem a b h (by omega)) (by omega)

@[simp] theorem readBytes_length (s : State) (a n : Nat) : (s.readBytes a n).length = n := by simp [readBytes]

@[simp] theorem readBytes_getElem (s : State) (a n k : Nat) (h : k < (s.readBytes a n).length) :
    (s.readBytes a n)[k] = s.readByte (a + k) := by simp [readBytes]

/-! ### Call stack -/

/-- The stack is full exactly when it has a limit and holds that many entries or more. -/
theorem stackFull_iff (s : State) : s.stackFull = true ↔ ∃ n, s.params.stackLimit = some n ∧ n ≤ s.sp := by
  unfold stackFull
  split <;> simp_all

/-- `Pop()` fails exactly on the empty stack. -/
theorem pop_none (s : State) : s.pop = none ↔ s.stack = [] := by
  unfold pop
  split
  · next h => simpa using h
  · next w h => simp only [reduceCtorEq, false_iff]; intro empty; simp [empty] at h

/-- `Pop()` of a stack with the top entry `w`. -/
theorem pop_append (s : State) (rest : List Word) (w : Word) (h : s.stack = rest ++ [w]) :
    s.pop = some (w, s.setStack rest) := by
  simp [pop, h]

/-- What `Pop()` gives: the last entry, and the stack without it. -/
theorem pop_some {s t : State} {w : Word} (h : s.pop = some (w, t)) :
    s.stack = t.stack ++ [w] ∧ t = s.setStack t.stack := by
  unfold pop at h
  split at h
  · cases h
  · next w' hw =>
    simp only [Option.some.injEq, Prod.mk.injEq] at h
    obtain ⟨rfl, rfl⟩ := h
    refine ⟨?_, rfl⟩
    simp [List.dropLast_append_getLast?, hw]

/-! ### Next-PC outcomes (R104) -/

@[simp] theorem applyNextPc_advance (s : State) : s.applyNextPc .advance = s.setPc (s.pc + 2) := rfl
@[simp] theorem applyNextPc_skip (s : State) : s.applyNextPc .skip = s.setPc (s.pc + 4) := rfl
@[simp] theorem applyNextPc_goto (s : State) (t : Word) : s.applyNextPc (.goto t) = s.setPc t := rfl
@[simp] theorem applyNextPc_hold (s : State) : s.applyNextPc .hold = s := rfl

/-- An outcome changes `PC` and nothing else. -/
theorem applyNextPc_eq_setPc (s : State) (o : NextPc) : s.applyNextPc o = s.setPc (s.applyNextPc o).pc := by
  cases o <;> rfl

/-! ### Result and flag (R138) -/

/-- The two writes of R138 change the registers and nothing else. -/
theorem setResultAndFlag_eq (s : State) (x : RegIdx) (res flag : Byte) :
    ∃ v, s.setResultAndFlag x res flag = { s with v := v } := by
  unfold setResultAndFlag
  split <;> exact ⟨_, rfl⟩

/-- What the registers hold after the two writes. -/
theorem setResultAndFlag_getV (s : State) (x r : RegIdx) (res flag : Byte) :
    (s.setResultAndFlag x res flag).getV r =
      if r = regF ∧ (x ≠ regF ∨ s.params.vfWriteOrder = .flagLast) then flag
      else if r = x then res else s.getV r := by
  unfold setResultAndFlag
  cases s.params.vfWriteOrder <;> by_cases hr : r = regF <;> by_cases hx : r = x <;> simp_all [eq_comm]

end State

/-! ### Operands -/

@[simp] theorem addrOf_toNat (nnn : Addr12) : (addrOf nnn).toNat = nnn.toNat := by
  simp only [addrOf, BitVec.toNat_setWidth]
  exact Nat.mod_eq_of_lt (by omega)

@[simp] theorem zext16_toNat (b : Byte) : (zext16 b).toNat = b.toNat := by
  simp only [zext16, BitVec.toNat_setWidth]
  exact Nat.mod_eq_of_lt (by omega)

/-- `ADD I, Vx` reduces the sum modulo 4096. -/
theorem indexSum_toNat (i : Word) (b : Byte) : (indexSum i b).toNat = (i.toNat + b.toNat) % 4096 := by
  have mask : (0x0FFF : Word).toNat = 2 ^ 12 - 1 := rfl
  rw [indexSum, BitVec.toNat_and, mask, Nat.and_two_pow_sub_one_eq_mod, BitVec.toNat_add, zext16_toNat]
  omega

/-- The low nibble of a byte, as a number. -/
theorem lowNibble_toNat (b : Byte) : (b &&& 0x0F).toNat = b.toNat % 16 := by
  have mask : (0x0F : Byte).toNat = 2 ^ 4 - 1 := rfl
  rw [BitVec.toNat_and, mask, Nat.and_two_pow_sub_one_eq_mod]

/-- The address of a glyph, for a font that lies in memory. -/
theorem glyphAddr_toNat (p : Params) (b : Byte) (h : p.Wf) :
    (glyphAddr p b).toNat = p.fontBase.toNat + 5 * (b.toNat % 16) := by
  simp only [Params.Wf, memSize] at h
  simp only [glyphAddr, BitVec.toNat_add, BitVec.toNat_mul, zext16_toNat, lowNibble_toNat]
  have five : (5 : Word).toNat = 5 := rfl
  rw [five]
  omega

/-- The range check of R54, in numbers. -/
theorem rangeFits_iff (a n : Nat) : rangeFits a n = true ↔ n = 0 ∨ a + n ≤ 0x1000 := by
  simp only [rangeFits, Bool.or_eq_true, beq_iff_eq, decide_eq_true_eq]
  omega

/-- The reported address is `max(a, 0x1000)` (R54). -/
theorem firstBadAddr_toNat (a : Word) : (firstBadAddr a).toNat = max a.toNat 0x1000 := by
  unfold firstBadAddr
  have base : (0x1000 : Word).toNat = 0x1000 := rfl
  split <;> omega

/-- An access whose range lies in memory goes on. -/
theorem accessAtI_inRange {n : Nat} {s : State} {r : Result} (h : n = 0 ∨ s.i.toNat + n ≤ 0x1000) :
    accessAtI n s r = r := by
  simp [accessAtI, (rangeFits_iff _ _).2 h]

/-- An access whose range passes `0xFFF` is the `MemoryFault` error, and nothing of the instruction happens. -/
theorem accessAtI_outOfRange {n : Nat} {s : State} {r : Result} (h : ¬(n = 0 ∨ s.i.toNat + n ≤ 0x1000)) :
    accessAtI n s r = raise .memoryFault (some (firstBadAddr s.i)) s := by
  simp only [accessAtI, mt (rangeFits_iff _ _).1 h]
  rfl

/-- The fetch gives the two bytes at `PC`, the first one high, or none past `0xFFE`. -/
theorem fetch_some {s : State} {op : Word} (h : s.fetch = some op) :
    s.pc.toNat + 1 ≤ 0xFFF ∧ op = opcodeOfBytes (s.readByte s.pc.toNat) (s.readByte (s.pc.toNat + 1)) := by
  unfold State.fetch at h
  split at h
  · cases h
  · exact ⟨by omega, (Option.some.inj h).symm⟩

theorem fetch_none {s : State} (h : s.fetch = none) : 0xFFF < s.pc.toNat + 1 := by
  unfold State.fetch at h
  split at h
  · assumption
  · cases h

/-- A big-endian opcode as a number (spec/20_memory.md R52). -/
theorem opcodeOfBytes_toNat (hi lo : Byte) : (opcodeOfBytes hi lo).toNat = hi.toNat * 256 + lo.toNat := by
  simp only [opcodeOfBytes, BitVec.toNat_append]
  rw [← Nat.shiftLeft_add_eq_or_of_lt lo.isLt, Nat.shiftLeft_eq]

/-- The decimal digits of a byte, as numbers (R173). -/
theorem bcdDigits_toNat (b : Byte) :
    (bcdDigits b).map BitVec.toNat = [b.toNat / 100, b.toNat / 10 % 10, b.toNat % 10] := by
  simp [bcdDigits]

@[simp] theorem mem_regsUpTo (x r : RegIdx) : r ∈ regsUpTo x ↔ r ≤ x := by simp [regsUpTo]

/-- `V0..Vx` are the registers of the numbers `0..x`, in that order. -/
theorem regsUpTo_vals (x : RegIdx) : (regsUpTo x).map Fin.val = List.range (x + 1) := by
  revert x
  decide

/-- Loading the registers `rs` changes the registers and nothing else; those not in `rs` keep their value. -/
theorem foldl_setV_getV (f : RegIdx → Byte) (rs : List RegIdx) (t : State) (r : RegIdx) :
    (rs.foldl (fun t q => t.setV q (f q)) t).getV r = if r ∈ rs then f r else t.getV r := by
  induction rs generalizing t with
  | nil => simp
  | cons q rs ih =>
    rw [List.foldl_cons, ih]
    by_cases hr : r ∈ rs <;> by_cases hq : r = q <;> simp_all

theorem foldl_setV_eq (f : RegIdx → Byte) (rs : List RegIdx) (t : State) :
    ∃ v, rs.foldl (fun t q => t.setV q (f q)) t = { t with v := v } := by
  induction rs generalizing t with
  | nil => exact ⟨t.v, rfl⟩
  | cons q rs ih =>
    obtain ⟨v, hv⟩ := ih (t.setV q (f q))
    exact ⟨v, by rw [List.foldl_cons, hv]; rfl⟩

/-- What the registers hold after `LD Vx, [I]`'s loads (R175). -/
theorem loadRegs_getV (s : State) (rs : List RegIdx) (r : RegIdx) :
    (loadRegs s rs).getV r = if r ∈ rs then s.readByte (s.i.toNat + r) else s.getV r :=
  foldl_setV_getV (fun q => s.readByte (s.i.toNat + q)) rs s r

theorem loadRegs_eq (s : State) (rs : List RegIdx) : ∃ v, loadRegs s rs = { s with v := v } :=
  foldl_setV_eq (fun q => s.readByte (s.i.toNat + q)) rs s

/-! ### How an instruction can end -/

/-- `complete` gives a next state, `s` with a new `PC`. -/
theorem complete_next {o : NextPc} {s t : State} (h : complete o s = .next t) :
    t = s.setPc t.pc ∧ t.pc = (s.applyNextPc o).pc := by
  obtain rfl := Host.Outcome.next.inj h
  exact ⟨s.applyNextPc_eq_setPc o, rfl⟩

/-- `raise` gives a next state, `s` with the error recorded. -/
theorem raise_next {kind : FaultKind} {addr : Option Word} {s t : State} (h : raise kind addr s = .next t) :
    t = s.setFault (some ⟨kind, s.pc, some s.ir, addr⟩) :=
  (Host.Outcome.next.inj h).symm

end Sys2Proof.Machine
end

