-- ==== Sys2Proof/Laws/Display.lean ====
section
/-! SUPPORT. The framebuffer cell by cell: what a flip, a clear and a plot do. -/

namespace Sys2Proof.Machine

namespace Framebuffer

@[simp] theorem cell_clear (c : Nat) : clear.cell c = false := by
  unfold cell clear
  split <;> simp

/-- A flip inverts its own cell and no other. -/
theorem cell_flip (f : Framebuffer) (c d : Nat) (hc : c < fbCells) :
    (f.flip c).cell d = (f.cell d ^^ decide (d = c)) := by
  simp only [fbCells] at hc
  have row : c / 64 < 32 := by omega
  unfold flip
  rw [dif_pos row]
  unfold cell
  split
  · next h =>
    rw [Vector.getElem_set]
    split
    · next same =>
      rw [BitVec.getLsbD_xor, BitVec.getLsbD_twoPow]
      simp only [same]
      congr 1
      rw [show decide (c % 64 < 64) = true by simp; omega, Bool.true_and]
      exact decide_eq_decide.2 ⟨by omega, by omega⟩
    · next other => simp [show d ≠ c by rintro rfl; exact other rfl]
  · next h => simp [show d ≠ c by omega]

/-- Two framebuffers with the same 2048 cells are equal. -/
theorem ext_cells {f g : Framebuffer} (h : ∀ c < fbCells, f.cell c = g.cell c) : f = g := by
  apply Vector.ext
  intro r hr
  apply BitVec.eq_of_getLsbD_eq
  intro k hk
  have same := h (r * 64 + k) (by simp only [fbCells]; omega)
  unfold cell at same
  simpa [show (r * 64 + k) / 64 = r by omega, show (r * 64 + k) % 64 = k by omega, hr] using same

end Framebuffer

/-! ### Plotting -/

/-- One cell of `plot`: flip it, and note whether it was 1 (R191). -/
theorem plot_step (f : Framebuffer) (coll : Bool) (cs : List Nat) :
    cs.foldl (fun (p : Framebuffer × Bool) c => (p.1.flip c, p.2 || p.1.cell c)) (f, coll) =
      ((plot f cs).1, coll || (plot f cs).2) := by
  unfold plot
  induction cs generalizing f coll with
  | nil => simp
  | cons c cs ih =>
    simp only [List.foldl_cons]
    rw [ih, ih (f.flip c) (false || f.cell c)]
    simp [Bool.or_assoc]

@[simp] theorem plot_nil (f : Framebuffer) : plot f [] = (f, false) := rfl

theorem plot_cons (f : Framebuffer) (c : Nat) (cs : List Nat) :
    plot f (c :: cs) = ((plot (f.flip c) cs).1, f.cell c || (plot (f.flip c) cs).2) := by
  rw [plot, List.foldl_cons, plot_step]
  simp

/-- A cell after plotting: inverted once for every time it is plotted. -/
theorem plot_cell (f : Framebuffer) (cs : List Nat) (d : Nat) (h : ∀ c ∈ cs, c < fbCells) :
    (plot f cs).1.cell d = (f.cell d ^^ decide (cs.count d % 2 = 1)) := by
  induction cs generalizing f with
  | nil => simp
  | cons c cs ih =>
    rw [plot_cons, ih _ fun e he => h e (List.mem_cons_of_mem _ he), Framebuffer.cell_flip _ _ _ (h c List.mem_cons_self)]
    by_cases hd : d = c
    · subst hd
      rw [List.count_cons_self]
      rcases Nat.mod_two_eq_zero_or_one (List.count d cs) with e | e <;> simp [e, Nat.add_mod]
    · rw [List.count_cons_of_ne (Ne.symm hd)]
      simp [hd]

end Sys2Proof.Machine
end

