-- ==== Sys2Proof/Laws/Encoding.lean ====
section
/-! SUPPORT. What each field extractor reads from each format, and each opcode put together again from its fields. -/

namespace Sys2Proof

/-! ### The bits of a format -/

theorem getLsbD_byteOfNibbles (a b : Nibble) (k : Nat) :
    (byteOfNibbles a b).getLsbD k = if k < 4 then b.getLsbD k else a.getLsbD (k - 4) :=
  BitVec.getLsbD_append

theorem getLsbD_opcodeOfBytes (hi lo : Byte) (k : Nat) :
    (opcodeOfBytes hi lo).getLsbD k = if k < 8 then lo.getLsbD k else hi.getLsbD (k - 8) :=
  BitVec.getLsbD_append

theorem getLsbD_encodeA (op : Nibble) (nnn : Addr12) (k : Nat) :
    (encodeA op nnn).getLsbD k = if k < 12 then nnn.getLsbD k else op.getLsbD (k - 12) :=
  BitVec.getLsbD_append

/-- The `n` bits from bit `start` on, bit by bit. -/
theorem extractLsb'_eq {w n : Nat} (a : BitVec w) (start : Nat) (b : BitVec n)
    (h : ∀ k < n, a.getLsbD (start + k) = b.getLsbD k) : a.extractLsb' start n = b := by
  apply BitVec.eq_of_getLsbD_eq
  intro k hk
  rw [BitVec.getLsbD_extractLsb', h k hk]
  simp [hk]

@[simp] theorem nibbleOf_toFin (x : Fin 16) : (nibbleOf x).toFin = x := rfl
@[simp] theorem nibbleOf_of_toFin (b : Nibble) : nibbleOf b.toFin = b := rfl

/-! ### The fields of an encoded opcode -/

@[simp] theorem nA_encodeA (op : Nibble) (nnn : Addr12) : nA (encodeA op nnn) = op := by
  refine extractLsb'_eq _ _ _ fun k hk => ?_
  rw [getLsbD_encodeA, if_neg (by omega), show 12 + k - 12 = k by omega]

@[simp] theorem fieldNnn_encodeA (op : Nibble) (nnn : Addr12) : fieldNnn (encodeA op nnn) = nnn := by
  refine extractLsb'_eq _ _ _ fun k hk => ?_
  rw [getLsbD_encodeA, if_pos (by omega), show 0 + k = k by omega]

@[simp] theorem fieldKk_encodeXK (op : Nibble) (x : RegIdx) (kk : Byte) : fieldKk (encodeXK op x kk) = kk := by
  refine extractLsb'_eq _ _ _ fun k hk => ?_
  rw [encodeXK, getLsbD_opcodeOfBytes, if_pos (by omega), show 0 + k = k by omega]

@[simp] theorem nA_encodeXK (op : Nibble) (x : RegIdx) (kk : Byte) : nA (encodeXK op x kk) = op := by
  refine extractLsb'_eq _ _ _ fun k hk => ?_
  rw [encodeXK, getLsbD_opcodeOfBytes, if_neg (by omega), getLsbD_byteOfNibbles, if_neg (by omega),
    show 12 + k - 8 - 4 = k by omega]

@[simp] theorem fieldX_encodeXK (op : Nibble) (x : RegIdx) (kk : Byte) : fieldX (encodeXK op x kk) = x := by
  refine congrArg BitVec.toFin (extractLsb'_eq _ _ (nibbleOf x) fun k hk => ?_)
  rw [encodeXK, getLsbD_opcodeOfBytes, if_neg (by omega), getLsbD_byteOfNibbles, if_pos (by omega),
    show 8 + k - 8 = k by omega]

@[simp] theorem nA_encodeXYN (op : Nibble) (x y : RegIdx) (n : Nibble) : nA (encodeXYN op x y n) = op :=
  nA_encodeXK _ _ _

@[simp] theorem fieldX_encodeXYN (op : Nibble) (x y : RegIdx) (n : Nibble) : fieldX (encodeXYN op x y n) = x :=
  fieldX_encodeXK _ _ _

@[simp] theorem fieldY_encodeXYN (op : Nibble) (x y : RegIdx) (n : Nibble) : fieldY (encodeXYN op x y n) = y := by
  refine congrArg BitVec.toFin (extractLsb'_eq _ _ (nibbleOf y) fun k hk => ?_)
  rw [encodeXYN, encodeXK, getLsbD_opcodeOfBytes, if_pos (by omega), getLsbD_byteOfNibbles, if_neg (by omega),
    show 4 + k - 4 = k by omega]

@[simp] theorem nD_encodeXYN (op : Nibble) (x y : RegIdx) (n : Nibble) : nD (encodeXYN op x y n) = n := by
  refine extractLsb'_eq _ _ _ fun k hk => ?_
  rw [encodeXYN, encodeXK, getLsbD_opcodeOfBytes, if_pos (by omega), getLsbD_byteOfNibbles, if_pos (by omega),
    show 0 + k = k by omega]

@[simp] theorem fieldN_encodeXYN (op : Nibble) (x y : RegIdx) (n : Nibble) :
    fieldN (encodeXYN op x y n) = n.toFin := by rw [fieldN, nD_encodeXYN]

/-! ### An opcode from its fields -/

theorem encodeA_fields (op : Word) : encodeA (nA op) (fieldNnn op) = op := by
  apply BitVec.eq_of_getLsbD_eq
  intro k hk
  rw [getLsbD_encodeA]
  split
  · next h => simp [fieldNnn, h]
  · simp [nA, show k - 12 < 4 by omega, show 12 + (k - 12) = k by omega]

/-- The low byte of an opcode is `y ∥ n`. -/
theorem byteOfNibbles_fields (op : Word) : byteOfNibbles (nibbleOf (fieldY op)) (nD op) = fieldKk op := by
  apply BitVec.eq_of_getLsbD_eq
  intro k hk
  rw [getLsbD_byteOfNibbles, fieldY, nibbleOf_of_toFin]
  split
  · next h => simp [nD, fieldKk, h, hk]
  · simp [fieldKk, hk, show k - 4 < 4 by omega, show 4 + (k - 4) = k by omega]

theorem encodeXK_fields (op : Word) : encodeXK (nA op) (fieldX op) (fieldKk op) = op := by
  apply BitVec.eq_of_getLsbD_eq
  intro k hk
  rw [encodeXK, getLsbD_opcodeOfBytes]
  split
  · next h => simp [fieldKk, h]
  · rw [getLsbD_byteOfNibbles, fieldX, nibbleOf_of_toFin]
    split
    · next h => simp [h, show 8 + (k - 8) = k by omega]
    · simp [nA, show k - 8 - 4 < 4 by omega, show 12 + (k - 8 - 4) = k by omega]

theorem encodeXYN_fields (op : Word) : encodeXYN (nA op) (fieldX op) (fieldY op) (nD op) = op := by
  rw [encodeXYN, byteOfNibbles_fields, encodeXK_fields]

/-- The two bytes of an opcode, put together, are the opcode. -/
theorem opcodeOfBytes_bytesOfOpcode (op : Word) : opcodeOfBytes (op.extractLsb' 8 8) (op.extractLsb' 0 8) = op := by
  apply BitVec.eq_of_getLsbD_eq
  intro k hk
  rw [getLsbD_opcodeOfBytes]
  split
  · next h => simp [h]
  · simp [show k - 8 < 8 by omega, show 8 + (k - 8) = k by omega]

end Sys2Proof
end

