-- ==== Sys2Proof/Laws/Exec.lean ====
section
/-! SUPPORT. What one instruction can do, said once: it raises an error, for a named cause, or it completes, and then each
field changes only by its own writers. Later proofs take the cases from here and do not unfold the meanings. -/

namespace Sys2Proof.Machine

/-- Why the instruction `i`, executed in `s`, raises an error of this kind, and the address it reports. -/
def RaiseCause (i : Instr) (s : State) (addr : Option Word) : FaultKind → Prop
  | .unknownOpcode => (∃ nnn, i = .sys nnn) ∧ s.params.sysPolicy = .fault ∧ addr = none
  | .memoryFault => addr = some (firstBadAddr s.i) ∧
      ((∃ x y n, i = .drw x y n ∧ n ≠ 0 ∧ 0xFFF < s.i.toNat + n - 1) ∨
        (∃ x, i = .ldBVx x ∧ 0xFFF < s.i.toNat + 2) ∨
        (∃ x, (i = .ldMemVx x ∨ i = .ldVxMem x) ∧ 0xFFF < s.i.toNat + x))
  | .stackUnderflow => i = .ret ∧ s.stack = [] ∧ addr = none
  | .stackOverflow => (∃ nnn n, i = .call nnn ∧ s.params.stackLimit = some n ∧ n ≤ s.sp) ∧ addr = none

/-- What the instruction `i`, completed from `s`, can have made of each field of `t`. -/
structure CompletedFrom (i : Instr) (s t : State) : Prop where
  regs : ∀ r, t.getV r = s.getV r ∨ WritesRegister i r
  fault : t.fault = s.fault
  ir : t.ir = s.ir
  key : t.key = s.key
  keyLatch : t.keyLatch = s.keyLatch
  params : t.params = s.params
  index : t.i = s.i ∨ (∃ nnn, i = .ldI nnn ∧ t.i = addrOf nnn) ∨
    (∃ x, i = .addIVx x ∧ t.i = indexSum s.i (s.getV x)) ∨
    ∃ x, i = .ldFVx x ∧ t.i = glyphAddr s.params (s.getV x)
  stack : t.stack = s.stack ∨ (i = .ret ∧ ∃ w, s.stack = t.stack ++ [w]) ∨
    ∃ nnn, i = .call nnn ∧ s.stackFull = false ∧ t.stack = s.stack ++ [s.pc + 2]
  dt : t.dt = s.dt ∨ ∃ x, i = .ldDtVx x
  st : t.st = s.st ∨ ∃ x, i = .ldStVx x
  fb : t.fb = s.fb ∨ i = .cls ∨ ∃ x y n, i = .drw x y n
  mem : t.mem = s.mem ∨
    (∃ x, i = .ldBVx x ∨ i = .ldMemVx x) ∧ (Memory.wf s.params s.mem → Memory.wf s.params t.mem)
  draws : t.draws = s.draws ∨ ∃ x kk, i = .rnd x kk
  wait : t.wait = s.wait ∨ ∃ x, i = .ldVxK x ∧ s.keyLatch = none ∧ t.wait = some x ∧ t.pc = s.pc
  draw : (t.draw = s.draw ∧ i ≠ .cls ∧ ∀ x y n, i ≠ .drw x y n) ∨
    (t.draw = true ∧ (i = .cls ∨ ∃ x y n, i = .drw x y n))
  pc : t.pc = s.pc ∨ t.pc = s.pc + 2 ∨ t.pc = s.pc + 4 ∨ (∃ nnn : Addr12, t.pc = addrOf nnn) ∨
    (∃ nnn b, t.pc = addrOf nnn + zext16 b) ∨ t.pc ∈ s.stack

/-- The two ends of an access at `I`. -/
theorem accessAtI_cases {n : Nat} {s t : State} {r : Result} (h : accessAtI n s r = .next t) :
    ((n = 0 ∨ s.i.toNat + n ≤ 0x1000) ∧ r = .next t) ∨
    (¬(n = 0 ∨ s.i.toNat + n ≤ 0x1000) ∧ t = s.recordFault .memoryFault (some s.ir) (some (firstBadAddr s.i))) := by
  by_cases c : n = 0 ∨ s.i.toNat + n ≤ 0x1000
  · exact .inl ⟨c, by rwa [accessAtI_inRange c] at h⟩
  · rw [accessAtI_outOfRange c] at h
    exact .inr ⟨c, raise_next h⟩

/-- An instruction that only writes registers and goes on, skips or holds. -/
theorem completedFrom_v {i : Instr} {s u t : State} {v : Vector Byte 16} {o : NextPc}
    (h : complete o u = .next t) (hu : u = { s with v := v }) (ho : o = .advance ∨ o = .skip ∨ o = .hold)
    (hi : i ≠ .cls ∧ ∀ x y n, i ≠ .drw x y n) (hv : ∀ r, u.getV r = s.getV r ∨ WritesRegister i r) :
    CompletedFrom i s t := by
  subst hu
  obtain rfl := Host.Outcome.next.inj h
  constructor
  case regs => rcases ho with rfl | rfl | rfl <;> exact hv
  all_goals rcases ho with rfl | rfl | rfl <;> simp [hi]

theorem completedFrom_skipIf {i : Instr} {s t : State} {c : Bool} (h : skipIf c s = .next t)
    (hi : i ≠ .cls ∧ ∀ x y n, i ≠ .drw x y n) : CompletedFrom i s t :=
  completedFrom_v h rfl (by cases c <;> simp) hi fun _ => .inl rfl

/-- A register other than the one written keeps its value. -/
theorem setV_writes {i : Instr} (s : State) (x : RegIdx) (b : Byte) (h : WritesRegister i x) (r : RegIdx) :
    (s.setV x b).getV r = s.getV r ∨ WritesRegister i r := by
  by_cases same : r = x
  · exact .inr (same ▸ h)
  · exact .inl (State.setV_getV_other s x b r same)

/-- The two writes of a result and a flag. -/
theorem setResultAndFlag_writes {i : Instr} (s : State) (x : RegIdx) (res flag : Byte)
    (h : ∀ r, WritesRegister i r ↔ r = x ∨ r = 0xF) (r : RegIdx) :
    (s.setResultAndFlag x res flag).getV r = s.getV r ∨ WritesRegister i r := by
  rw [h, State.setResultAndFlag_getV]
  by_cases hx : r = x <;> by_cases hf : r = regF <;> simp_all

/-- An instruction that answers a next state raised an error for its cause, or completed. -/
theorem exec_cases {i : Instr} {s t : State} (h : exec i s = .next t) :
    (∃ kind addr, t = s.recordFault kind (some s.ir) addr ∧ RaiseCause i s addr kind) ∨ CompletedFrom i s t := by
  cases i with
  | sys nnn =>
    simp only [exec, execSys] at h
    split at h
    · exact .inr (completedFrom_v h rfl (by simp) (by simp) fun _ => .inl rfl)
    · next policy => exact .inl ⟨_, _, raise_next h, ⟨_, rfl⟩, policy, rfl⟩
  | jpV0 nnn =>
    obtain rfl := Host.Outcome.next.inj h
    right; constructor
    case pc => exact .inr (.inr (.inr (.inr (.inl ⟨_, _, rfl⟩))))
    all_goals simp
  | rnd x kk =>
    obtain rfl := Host.Outcome.next.inj h
    right; constructor
    case regs => exact setV_writes s.countDraw x _ rfl
    all_goals simp
  | cls | jp | ldI | addIVx | ldFVx | ldDtVx | ldStVx =>
    obtain rfl := Host.Outcome.next.inj h
    right; constructor <;> simp
  | ret =>
    simp only [exec, execRet] at h
    split at h
    · next empty => exact .inl ⟨_, _, raise_next h, rfl, (State.pop_none s).1 empty, rfl⟩
    · next w s' popped =>
      obtain ⟨top, same⟩ := State.pop_some popped
      obtain rfl := Host.Outcome.next.inj h
      right
      rw [same] at *
      constructor <;> simp [top]
  | call nnn =>
    simp only [exec, execCall] at h
    split at h
    · next full =>
      obtain ⟨n, limit, deep⟩ := (State.stackFull_iff s).1 full
      exact .inl ⟨_, _, raise_next h, ⟨_, n, rfl, limit, deep⟩, rfl⟩
    · next room =>
      obtain rfl := Host.Outcome.next.inj h
      right; constructor <;> simp [State.push, room]
  | seKk | sneKk | seVy | sneVy | skp | sknp => exact .inr (completedFrom_skipIf h (by simp))
  | ldKk | addKk | ldVy | orVy | andVy | xorVy | ldVxDt => exact .inr (completedFrom_v h rfl (by simp) (by simp) (setV_writes s _ _ rfl))
  | addVy | subVy | shrVy | subnVy | shlVy =>
    obtain ⟨v, hv⟩ := State.setResultAndFlag_eq s _ _ _
    exact .inr (completedFrom_v h hv (by simp) (by simp) (setResultAndFlag_writes s _ _ _ fun _ => Iff.rfl))
  | ldVxK x =>
    simp only [exec, execLdVxK] at h
    split at h
    · exact .inr (completedFrom_v h rfl (by simp) (by simp) (setV_writes s _ _ rfl))
    · obtain rfl := Host.Outcome.next.inj h
      right; constructor <;> simp_all
  | drw x y n =>
    obtain ⟨range, h⟩ | ⟨range, h⟩ := accessAtI_cases h
    · obtain rfl := Host.Outcome.next.inj h
      right; constructor
      case regs => exact setV_writes (s.setFb _) regF _ rfl
      all_goals simp
    · exact .inl ⟨_, _, h, rfl, .inl ⟨x, y, n, rfl, by rintro rfl; simp at range, by omega⟩⟩
  | ldBVx x =>
    obtain ⟨range, h⟩ | ⟨range, h⟩ := accessAtI_cases h
    · obtain rfl := Host.Outcome.next.inj h
      right; constructor
      case mem =>
        exact .inr ⟨⟨x, .inl rfl⟩, fun hw => State.writeBytes_wf s _ _ hw (by simp [bcdDigits, memSize]; omega)⟩
      all_goals rw [State.writeBytes_eq_setMem]; simp
    · exact .inl ⟨_, _, h, rfl, .inr (.inl ⟨x, rfl, by omega⟩)⟩
  | ldMemVx x =>
    obtain ⟨range, h⟩ | ⟨range, h⟩ := accessAtI_cases h
    · obtain rfl := Host.Outcome.next.inj h
      have count : (regsUpTo x).length = x + 1 := by simpa using congrArg List.length (regsUpTo_vals x)
      right; constructor
      case mem =>
        exact .inr ⟨⟨x, .inr rfl⟩, fun hw => State.writeBytes_wf s _ _ hw (by simp [count, memSize]; omega)⟩
      all_goals rw [State.writeBytes_eq_setMem]; simp
    · exact .inl ⟨_, _, h, rfl, .inr (.inr ⟨x, .inl rfl, by omega⟩)⟩
  | ldVxMem x =>
    obtain ⟨range, h⟩ | ⟨range, h⟩ := accessAtI_cases h
    · obtain ⟨v, hv⟩ := loadRegs_eq s (regsUpTo x)
      refine .inr (completedFrom_v h hv (by simp) (by simp) fun r => ?_)
      by_cases hr : r ≤ x
      · exact .inr hr
      · simp [loadRegs_getV, hr]
    · exact .inl ⟨_, _, h, rfl, .inr (.inr ⟨x, .inr rfl, by omega⟩)⟩

end Sys2Proof.Machine
end

