-- ==== Sys2Proof/Laws/Invariant.lean ====
section
/-! SUPPORT. The invariant reads nine fields only: a state that agrees with another on them (memory may be any canonical
one) meets it too. So an update of any other field keeps it. -/

namespace Sys2Proof.Machine

/-- The invariant of `s` holds of a `t` with the same parameters, `I`, `PC`, stack, `WAIT`, `IR` and `FAULT`, and a
canonical memory. -/
theorem Invariant.of_same {s t : State} (h : Invariant s) (params : t.params = s.params) (mem : Memory.wf s.params t.mem)
    (index : t.i = s.i) (pc : t.pc = s.pc) (stack : t.stack = s.stack) (wait : t.wait = s.wait) (ir : t.ir = s.ir)
    (fault : t.fault = s.fault) : Invariant t where
  params := params ▸ h.params
  memory := by rw [params]; exact mem
  index := index ▸ h.index
  pc := pc ▸ h.pc
  depth := by rw [params, State.sp, stack]; exact h.depth
  returns := stack ▸ h.returns
  waiting := by rw [wait, pc, params, ir, fault]; exact h.waiting
  fault := by
    intro r hr
    rw [fault] at hr
    have legal := h.fault r hr
    unfold FaultRecord.Legal at *
    rwa [pc, ir]

theorem Invariant.setDt {s : State} (h : Invariant s) (b : Byte) : Invariant (s.setDt b) :=
  h.of_same (s.setDt_params b) (by rw [State.setDt_mem]; exact h.memory) rfl rfl rfl rfl rfl rfl

theorem Invariant.setSt {s : State} (h : Invariant s) (b : Byte) : Invariant (s.setSt b) :=
  h.of_same (s.setSt_params b) (by rw [State.setSt_mem]; exact h.memory) rfl rfl rfl rfl rfl rfl

theorem Invariant.setDraw {s : State} (h : Invariant s) (d : Bool) : Invariant (s.setDraw d) :=
  h.of_same (s.setDraw_params d) (by rw [State.setDraw_mem]; exact h.memory) rfl rfl rfl rfl rfl rfl

theorem Invariant.setKey {s : State} (h : Invariant s) (k : Vector Bool 16) : Invariant (s.setKey k) :=
  h.of_same (s.setKey_params k) (by rw [State.setKey_mem]; exact h.memory) rfl rfl rfl rfl rfl rfl

theorem Invariant.setKeyLatch {s : State} (h : Invariant s) (k : Option KeyCode) : Invariant (s.setKeyLatch k) :=
  h.of_same (s.setKeyLatch_params k) (by rw [State.setKeyLatch_mem]; exact h.memory) rfl rfl rfl rfl rfl rfl

end Sys2Proof.Machine
end

