-- ==== Sys2Proof/Laws/PerInstr.lean ====
section
/-! SUPPORT. Statements made for every instruction, one lemma per constructor. -/

namespace Sys2Proof.Laws

/-! ### Masks, nibble by nibble -/

theorem and_byteOfNibbles (a b c d : Nibble) :
    byteOfNibbles a b &&& byteOfNibbles c d = byteOfNibbles (a &&& c) (b &&& d) := by
  apply BitVec.eq_of_getLsbD_eq
  intro k _
  simp only [BitVec.getLsbD_and, getLsbD_byteOfNibbles]
  split <;> rfl

theorem and_opcodeOfBytes (a b c d : Byte) :
    opcodeOfBytes a b &&& opcodeOfBytes c d = opcodeOfBytes (a &&& c) (b &&& d) := by
  apply BitVec.eq_of_getLsbD_eq
  intro k _
  simp only [BitVec.getLsbD_and, getLsbD_opcodeOfBytes]
  split <;> rfl

/-- The major opcode is fixed in format A. -/
theorem mask_encodeA (a : Nibble) (nnn : Addr12) : encodeA a nnn &&& 0xF000 = encodeA a 0 := by
  apply BitVec.eq_of_getLsbD_eq
  intro k hk
  have mask : (0xF000 : Word) = encodeA 0xF 0 := rfl
  rw [mask, BitVec.getLsbD_and, getLsbD_encodeA, getLsbD_encodeA, getLsbD_encodeA]
  have ones : ∀ j < 4, (0xF : Nibble).getLsbD j = true := by decide
  split
  · simp
  · rw [ones _ (by omega), Bool.and_true]

/-- The major opcode is fixed in format XK. -/
theorem mask_encodeXK (a : Nibble) (x : RegIdx) (kk : Byte) : encodeXK a x kk &&& 0xF000 = encodeXK a 0 0 := by
  have mask : (0xF000 : Word) = opcodeOfBytes (byteOfNibbles (BitVec.allOnes 4) 0#4) 0#8 := rfl
  rw [mask, encodeXK, and_opcodeOfBytes, and_byteOfNibbles, BitVec.and_allOnes, BitVec.and_zero, BitVec.and_zero]
  rfl

/-- The major opcode and the low byte are fixed in format X. -/
theorem mask_encodeX (a : Nibble) (x : RegIdx) (lo : Byte) : encodeXK a x lo &&& 0xF0FF = encodeXK a 0 lo := by
  have mask : (0xF0FF : Word) = opcodeOfBytes (byteOfNibbles (BitVec.allOnes 4) 0#4) (BitVec.allOnes 8) := rfl
  rw [mask, encodeXK, and_opcodeOfBytes, and_byteOfNibbles, BitVec.and_allOnes, BitVec.and_zero, BitVec.and_allOnes]
  rfl

/-- The major opcode and the sub-opcode are fixed in format XY. -/
theorem mask_encodeXY (a : Nibble) (x y : RegIdx) (n : Nibble) :
    encodeXYN a x y n &&& 0xF00F = encodeXYN a 0 0 n := by
  have mask : (0xF00F : Word) =
      opcodeOfBytes (byteOfNibbles (BitVec.allOnes 4) 0#4) (byteOfNibbles 0#4 (BitVec.allOnes 4)) := rfl
  rw [mask, encodeXYN, encodeXK, and_opcodeOfBytes, and_byteOfNibbles, and_byteOfNibbles, BitVec.and_allOnes,
    BitVec.and_zero, BitVec.and_zero, BitVec.and_allOnes]
  rfl

/-! ### The fixed bits of every instruction's opcode are its row's -/

namespace RowFixedBits

/-- The opcode of `i` matches the row of `i` (spec/30_encoding.md R74, R77). -/
def Statement (i : Instr) : Prop := i.row.Matches (encode i)

theorem sys (nnn : Addr12) : Statement (.sys nnn) := mask_encodeA _ _
theorem cls : Statement (.cls) := rfl
theorem ret : Statement (.ret) := rfl
theorem jp (nnn : Addr12) : Statement (.jp nnn) := mask_encodeA _ _
theorem call (nnn : Addr12) : Statement (.call nnn) := mask_encodeA _ _
theorem seKk (x : RegIdx) (kk : Byte) : Statement (.seKk x kk) := mask_encodeXK _ _ _
theorem sneKk (x : RegIdx) (kk : Byte) : Statement (.sneKk x kk) := mask_encodeXK _ _ _
theorem seVy (x y : RegIdx) : Statement (.seVy x y) := mask_encodeXY _ _ _ _
theorem ldKk (x : RegIdx) (kk : Byte) : Statement (.ldKk x kk) := mask_encodeXK _ _ _
theorem addKk (x : RegIdx) (kk : Byte) : Statement (.addKk x kk) := mask_encodeXK _ _ _
theorem ldVy (x y : RegIdx) : Statement (.ldVy x y) := mask_encodeXY _ _ _ _
theorem orVy (x y : RegIdx) : Statement (.orVy x y) := mask_encodeXY _ _ _ _
theorem andVy (x y : RegIdx) : Statement (.andVy x y) := mask_encodeXY _ _ _ _
theorem xorVy (x y : RegIdx) : Statement (.xorVy x y) := mask_encodeXY _ _ _ _
theorem addVy (x y : RegIdx) : Statement (.addVy x y) := mask_encodeXY _ _ _ _
theorem subVy (x y : RegIdx) : Statement (.subVy x y) := mask_encodeXY _ _ _ _
theorem shrVy (x y : RegIdx) : Statement (.shrVy x y) := mask_encodeXY _ _ _ _
theorem subnVy (x y : RegIdx) : Statement (.subnVy x y) := mask_encodeXY _ _ _ _
theorem shlVy (x y : RegIdx) : Statement (.shlVy x y) := mask_encodeXY _ _ _ _
theorem sneVy (x y : RegIdx) : Statement (.sneVy x y) := mask_encodeXY _ _ _ _
theorem ldI (nnn : Addr12) : Statement (.ldI nnn) := mask_encodeA _ _
theorem jpV0 (nnn : Addr12) : Statement (.jpV0 nnn) := mask_encodeA _ _
theorem rnd (x : RegIdx) (kk : Byte) : Statement (.rnd x kk) := mask_encodeXK _ _ _
theorem drw (x y : RegIdx) (n : Fin 16) : Statement (.drw x y n) := mask_encodeXK _ _ _
theorem skp (x : RegIdx) : Statement (.skp x) := mask_encodeX _ _ _
theorem sknp (x : RegIdx) : Statement (.sknp x) := mask_encodeX _ _ _
theorem ldVxDt (x : RegIdx) : Statement (.ldVxDt x) := mask_encodeX _ _ _
theorem ldVxK (x : RegIdx) : Statement (.ldVxK x) := mask_encodeX _ _ _
theorem ldDtVx (x : RegIdx) : Statement (.ldDtVx x) := mask_encodeX _ _ _
theorem ldStVx (x : RegIdx) : Statement (.ldStVx x) := mask_encodeX _ _ _
theorem addIVx (x : RegIdx) : Statement (.addIVx x) := mask_encodeX _ _ _
theorem ldFVx (x : RegIdx) : Statement (.ldFVx x) := mask_encodeX _ _ _
theorem ldBVx (x : RegIdx) : Statement (.ldBVx x) := mask_encodeX _ _ _
theorem ldMemVx (x : RegIdx) : Statement (.ldMemVx x) := mask_encodeX _ _ _
theorem ldVxMem (x : RegIdx) : Statement (.ldVxMem x) := mask_encodeX _ _ _

end RowFixedBits

end Sys2Proof.Laws
end

