-- ==== Sys2Proof/Laws/Step.lean ====
section
/-! SUPPORT. What one step can do, said once (spec/40_cycle.md R109): later proofs take the cases from here and do not
unfold the cycle. -/

namespace Sys2Proof.Machine

/-- The end of a step that raised nothing clears `KEYLATCH`. -/
theorem endStep_next {r : Result} {t : State} (h : endStep r = .next t) :
    ∃ u, r = .next u ∧ t = if u.fault.isSome then u else u.setKeyLatch none := by
  cases r with
  | next u => exact ⟨u, rfl, (Host.Outcome.next.inj h).symm⟩
  | fault r => cases h
  | refused r => cases h

/-- How a step that answers a next state can have run: the core was not faulted, and it
(1) was waiting and took the latched key; (2) was waiting and waits on; (3) could not fetch; (4) fetched an opcode that
is no instruction; (5) executed the instruction it fetched. -/
theorem step_cases {s t : State} (h : step s = .next t) : s.fault = none ∧
    ((∃ x k, s.wait = some x ∧ s.keyLatch = some k ∧
        t = (((((s.setDraw false).setV x (keyByte k)).setWait none).setPc (s.pc + 2)).setKeyLatch none)) ∨
     (∃ x, s.wait = some x ∧ s.keyLatch = none ∧ t = (s.setDraw false).setKeyLatch none) ∨
     (s.wait = none ∧ s.fetch = none ∧
        t = (s.setDraw false).recordFault .memoryFault none (some (firstBadAddr s.pc))) ∨
     (∃ op e, s.wait = none ∧ s.fetch = some op ∧ decode s.params.sysPolicy op = .error e ∧
        t = ((s.setDraw false).setIr op).recordFault .unknownOpcode (some op) none) ∨
     (∃ op i u, s.wait = none ∧ s.fetch = some op ∧ decode s.params.sysPolicy op = .ok i ∧
        exec i ((s.setDraw false).setIr op) = .next u ∧ t = if u.fault.isSome then u else u.setKeyLatch none)) := by
  unfold step cycle at h
  split at h
  · cases h
  next hf =>
  obtain ⟨u, hu, rfl⟩ := endStep_next h
  refine ⟨hf, ?_⟩
  unfold runStep at hu
  split at hu
  · next x hw =>
    simp only [State.setDraw_wait] at hw
    unfold waitCheck at hu
    split at hu
    · next k hk =>
      obtain rfl := Host.Outcome.next.inj hu
      refine .inl ⟨x, k, hw, by simpa using hk, ?_⟩
      simp [hf]
    · next hk =>
      obtain rfl := Host.Outcome.next.inj hu
      refine .inr (.inl ⟨x, hw, by simpa using hk, ?_⟩)
      simp [hf]
  · next hw =>
    simp only [State.setDraw_wait] at hw
    have same : (s.setDraw false).fetch = s.fetch := rfl
    unfold fetchAndExec at hu
    rw [same] at hu
    split at hu
    · next hfe =>
      obtain rfl := Host.Outcome.next.inj hu
      exact .inr (.inr (.inl ⟨hw, hfe, by simp [State.recordFault]⟩))
    · next op hfe =>
      unfold decodeAndExec at hu
      split at hu
      · next e hd =>
        obtain rfl := raise_next hu
        exact .inr (.inr (.inr (.inl ⟨op, e, hw, hfe, hd, by simp [State.recordFault]⟩)))
      · next i hd => exact .inr (.inr (.inr (.inr ⟨op, i, u, hw, hfe, hd, hu, rfl⟩)))

end Sys2Proof.Machine
end

