-- ==== Sys2Proof/Tests/Slice0.lean ====
section
/-! SUPPORT. Tests: expected results come from the examples and the test vectors of spec/ (95_test_vectors.md and the
*Example* lines of the rules), or by hand from the rules. Then one witness for each statement that has hypotheses. -/

namespace Sys2Proof.Tests

open Sys2Proof.Machine

/-! ## Helpers -/

/-- The state after reset, with `op` at `0x200`. -/
def start (op : Word) : State := placeOpcode State.reset op

/-- `s` with the registers of `l` set. -/
def setRegs (s : State) (l : List (RegIdx × Byte)) : State := l.foldl (fun s p => s.setV p.1 p.2) s

/-- `op` at `0x200` and some registers set. -/
def startWith (op : Word) (l : List (RegIdx × Byte)) : State := setRegs (start op) l

/-- `s` with other parameters. -/
def withParams (s : State) (p : Params) : State := { s with params := p }

/-- `s` with `V1`, `V2` and `VF` (as the tables of 95_test_vectors.md section 2.4 have them). -/
def v12F (op : Word) (a b f : Byte) : State := startWith op [(1, a), (2, b), (0xF, f)]

/-- `s` with the stack `l`. -/
def withStack (s : State) (l : List Word) : State := s.setStack l

/-- `s` with `op` at `pc`, and `PC` there. -/
def startAt (pc op : Word) : State := placeOpcode (State.reset.setPc pc) op

/-- `r` is a next state that `p` holds of. -/
def nextIs (r : Result) (p : State → Bool) : Bool :=
  match r with
  | .next t => p t
  | .fault _ => false
  | .refused _ => false

theorem exists_of_nextIs {r : Result} {p : State → Bool} (h : nextIs r p = true) : ∃ t, r = .next t ∧ p t = true := by
  cases r with
  | next t => exact ⟨t, rfl, h⟩
  | fault _ => cases h
  | refused _ => cases h

/-- The step from `s` is a next state with the registers `V1` and `VF` as given, one instruction further on. -/
def gives (s : State) (v1 vF : Byte) : Bool :=
  nextIs (step s) fun t => t.getV 1 == v1 && t.getV 0xF == vF && t.pc == s.pc + 2 && t.fault == none

/-- The step from `s` raises the fault `r`. -/
def raises (s : State) (r : FaultRecord) : Bool := nextIs (step s) fun t => t.fault == some r

/-! ## WellFormed: the check refuses an ill-formed term (spec/30_encoding.md R74 row 1) -/

theorem test_wf_sys_cls : (Instr.sys 0x0E0).wellFormed = false := by decide
theorem test_wf_sys_ret : (Instr.sys 0x0EE).wellFormed = false := by decide
theorem test_wf_sys : (Instr.sys 0x0E1).wellFormed = true := by decide

/-! ## Decode: a word of every row, bit by bit from the patterns of spec/30_encoding.md R74 -/

theorem test_decode_control :
    decodeTableWord 16 0b0000000100100011 = some (.sys 0x123) ∧
    decodeTableWord 16 0b0000000011101110 = some .ret ∧
    decodeTableWord 16 0b0001001000110100 = some (.jp 0x234) ∧
    decodeTableWord 16 0b0010001100000000 = some (.call 0x300) ∧
    decodeTableWord 16 0b0011001101000010 = some (.seKk 3 0x42) ∧
    decodeTableWord 16 0b0100001101000010 = some (.sneKk 3 0x42) ∧
    decodeTableWord 16 0b0101000100100000 = some (.seVy 1 2) ∧
    decodeTableWord 16 0b1001000100100000 = some (.sneVy 1 2) ∧
    decodeTableWord 16 0b1011001100000000 = some (.jpV0 0x300) := by decide

theorem test_decode_alu :
    decodeTableWord 16 0b0110101000010010 = some (.ldKk 0xA 0x12) ∧
    decodeTableWord 16 0b0111101000000101 = some (.addKk 0xA 0x05) ∧
    decodeTableWord 16 0b1000000100100000 = some (.ldVy 1 2) ∧
    decodeTableWord 16 0b1000000100100001 = some (.orVy 1 2) ∧
    decodeTableWord 16 0b1000000100100010 = some (.andVy 1 2) ∧
    decodeTableWord 16 0b1000000100100011 = some (.xorVy 1 2) ∧
    decodeTableWord 16 0b1000000100100100 = some (.addVy 1 2) ∧
    decodeTableWord 16 0b1000000100100101 = some (.subVy 1 2) ∧
    decodeTableWord 16 0b1000000100100110 = some (.shrVy 1 2) ∧
    decodeTableWord 16 0b1000000100100111 = some (.subnVy 1 2) ∧
    decodeTableWord 16 0b1000000100101110 = some (.shlVy 1 2) ∧
    decodeTableWord 16 0b1100001100001111 = some (.rnd 3 0x0F) := by decide

theorem test_decode_index_memory :
    decodeTableWord 16 0b1010001011110000 = some (.ldI 0x2F0) ∧
    decodeTableWord 16 0b1111001000011110 = some (.addIVx 2) ∧
    decodeTableWord 16 0b1111001100101001 = some (.ldFVx 3) ∧
    decodeTableWord 16 0b1111010100110011 = some (.ldBVx 5) ∧
    decodeTableWord 16 0b1111001001010101 = some (.ldMemVx 2) ∧
    decodeTableWord 16 0b1111001001100101 = some (.ldVxMem 2) := by decide

theorem test_decode_display_keys_timers :
    decodeTableWord 16 0b0000000011100000 = some .cls ∧
    decodeTableWord 16 0b1101000100100101 = some (.drw 1 2 5) ∧
    decodeTableWord 16 0b1110010010011110 = some (.skp 4) ∧
    decodeTableWord 16 0b1110010010100001 = some (.sknp 4) ∧
    decodeTableWord 16 0b1111000100000111 = some (.ldVxDt 1) ∧
    decodeTableWord 16 0b1111001000001010 = some (.ldVxK 2) ∧
    decodeTableWord 16 0b1111000100010101 = some (.ldDtVx 1) ∧
    decodeTableWord 16 0b1111000100011000 = some (.ldStVx 1) := by decide

/-- Reserved encodings do not fall through to a neighbour (R78); SYS is none under the default policy. -/
theorem test_decode_rejects :
    (decode .nop 0x5121, decode .nop 0x8128, decode .nop 0x812F, decode .nop 0x9121) =
      (.error (.unknownOpcode 0x5121), .error (.unknownOpcode 0x8128), .error (.unknownOpcode 0x812F),
        .error (.unknownOpcode 0x9121)) ∧
    (decode .nop 0xE000, decode .nop 0xF000, decode .fault 0x00E1) =
      (.error (.unknownOpcode 0xE000), .error (.unknownOpcode 0xF000), .error (.unknownOpcode 0x00E1)) := by decide

/-- Too few bytes are no instruction; two bytes are one, and the rest is left. -/
theorem test_decode_bytes : decodeBytes .fault [0x12] = .error .tooFewBytes ∧
    decodeBytes .fault [0x12, 0x34, 0x56] = .ok (.jp 0x234, [0x56]) := by decide

/-! ## The interface: a placed word runs as the first instruction after reset -/

theorem test_withFetchWord : nextIs (step (State.reset.withFetchWord 16 0x6A12)) (fun t =>
    t.getV 0xA == 0x12 && t.pc == 0x202 && t.ir == 0x6A12 && t.readBytes 0x200 3 == [0x6A, 0x12, 0x00]) = true := by
  decide

/-- With nothing placed, the first step after reset is the error of section 2.8. -/
theorem test_reset_step : raises State.reset ⟨.unknownOpcode, 0x200, some 0x0000, none⟩ = true := by decide

/-! ## Control flow (95_test_vectors.md section 2.3) -/

theorem test_sys_fault : raises (start 0x0123) ⟨.unknownOpcode, 0x200, some 0x0123, none⟩ = true := by decide
theorem test_sys_nop : nextIs (step (withParams (start 0x0123) { Params.default with sysPolicy := .nop })) (fun t =>
    t.pc == 0x202 && t.fault == none) = true := by decide
theorem test_ret : nextIs (step (withStack (startAt 0x300 0x00EE) [0x202])) (fun t =>
    t.pc == 0x202 && t.stack == []) = true := by decide
theorem test_ret_empty : raises (start 0x00EE) ⟨.stackUnderflow, 0x200, some 0x00EE, none⟩ = true := by decide
theorem test_jp : nextIs (step (start 0x1234)) (fun t => t.pc == 0x234) = true := by decide
theorem test_call : nextIs (step (start 0x2300)) (fun t => t.pc == 0x300 && t.stack == [0x202]) = true := by decide
theorem test_call_full : raises (withStack (startAt 0x240 0x2300) (List.replicate 16 0x202))
    ⟨.stackOverflow, 0x240, some 0x2300, none⟩ = true := by decide
theorem test_seKk : nextIs (step (startWith 0x3342 [(3, 0x42)])) (fun t => t.pc == 0x204) = true := by decide
theorem test_seKk_not : nextIs (step (startWith 0x3342 [(3, 0x41)])) (fun t => t.pc == 0x202) = true := by decide
theorem test_sneKk : nextIs (step (startWith 0x4342 [(3, 0x41)])) (fun t => t.pc == 0x204) = true := by decide
theorem test_seVy : nextIs (step (startWith 0x5120 [(1, 7), (2, 7)])) (fun t => t.pc == 0x204) = true := by decide
theorem test_sneVy : nextIs (step (startWith 0x9120 [(1, 7), (2, 8)])) (fun t => t.pc == 0x204) = true := by decide
theorem test_sneVy_not : nextIs (step (startWith 0x9120 [(1, 7), (2, 7)])) (fun t => t.pc == 0x202) = true := by decide
theorem test_jpV0 : nextIs (step (startWith 0xBFFF [(0, 0xFF)])) (fun t => t.pc == 0x10FE) = true := by decide

/-! ## Arithmetic and logic (95_test_vectors.md section 2.4) -/

theorem test_ldKk : gives (v12F 0x61AB 0 0 0x55) 0xAB 0x55 = true := by decide
theorem test_addKk : gives (v12F 0x71FF 0x01 0 0x55) 0x00 0x55 = true := by decide
theorem test_ldVy : gives (v12F 0x8120 0x00 0x33 0x55) 0x33 0x55 = true := by decide
theorem test_orVy : gives (v12F 0x8121 0xF0 0x0F 0x55) 0xFF 0x55 = true := by decide
theorem test_andVy : gives (v12F 0x8122 0xF0 0x3C 0x55) 0x30 0x55 = true := by decide
theorem test_xorVy : gives (v12F 0x8123 0xF0 0x3C 0x55) 0xCC 0x55 = true := by decide
theorem test_addVy : gives (v12F 0x8124 0xFF 0x00 0x55) 0xFF 0 = true := by decide
theorem test_addVy_carry : gives (v12F 0x8124 0xFF 0x01 0x55) 0x00 1 = true := by decide
theorem test_subVy : gives (v12F 0x8125 0x00 0x01 0x55) 0xFF 0 = true := by decide
theorem test_subVy_equal : gives (v12F 0x8125 0x00 0x00 0x55) 0x00 1 = true := by decide
theorem test_shrVy : gives (v12F 0x8126 0xAA 0xFF 0x55) 0x7F 1 = true := by decide
theorem test_subnVy : gives (v12F 0x8127 0x03 0x0A 0x55) 0x07 1 = true := by decide
theorem test_subnVy_borrow : gives (v12F 0x8127 0x01 0x00 0x55) 0xFF 0 = true := by decide
theorem test_shlVy : gives (v12F 0x812E 0x00 0x81 0x55) 0x02 0x80 = true := by decide
theorem test_shlVy_normalised :
    gives (withParams (v12F 0x812E 0x00 0x81 0x55) { Params.default with shlVfMode := .normalised }) 0x02 0x01 = true := by
  decide

/-- The two writes to `VF` of section 2.4: `8F14` under each order. -/
theorem test_vf_order : gives (v12F 0x8F14 0x01 0 0xFF) 0x01 0x01 = true ∧
    gives (withParams (v12F 0x8F14 0x01 0 0xFF) { Params.default with vfWriteOrder := .resultLast }) 0x01 0x00 = true := by
  decide

/-- `kk = 0` always gives 0, whatever byte is drawn (R152). -/
theorem test_rnd : ∃ t, exec (.rnd 3 0x00) State.reset = .next t ∧ t.getV 3 = 0 ∧ t.draws = 1 :=
  ⟨_, rfl, by simp [State.getV, State.setV, State.applyNextPc, State.setPc], rfl⟩

/-! ## Index and memory (95_test_vectors.md section 2.5) -/

theorem test_ldI : nextIs (step (start 0xAFFF)) (fun t => t.i == 0xFFF && t.pc == 0x202) = true := by decide
theorem test_addIVx : nextIs (step ((startWith 0xF21E [(2, 0xFF)]).setI 0xFF0)) (fun t =>
    t.i == 0x0EF && t.getV 0xF == 0) = true := by decide
theorem test_ldFVx : nextIs (step (startWith 0xF329 [(3, 0x1A)])) (fun t => t.i == 0x82) = true := by decide
theorem test_ldBVx : nextIs (step ((startWith 0xF533 [(5, 128)]).setI 0xFFD)) (fun t =>
    t.readBytes 0xFFD 3 == [1, 2, 8] && t.i == 0xFFD) = true := by decide
theorem test_ldBVx_fault : raises ((startWith 0xF533 [(5, 128)]).setI 0xFFE)
    ⟨.memoryFault, 0x200, some 0xF533, some 0x1000⟩ = true := by decide
theorem test_ldMemVx : nextIs (step ((startWith 0xF255 [(0, 1), (1, 2), (2, 3), (3, 4)]).setI 0x400)) (fun t =>
    t.readBytes 0x400 4 == [1, 2, 3, 0] && t.i == 0x400) = true := by decide
theorem test_ldMemVx_fault : raises ((start 0xF155).setI 0xFFF)
    ⟨.memoryFault, 0x200, some 0xF155, some 0x1000⟩ = true := by decide
theorem test_ldVxMem : nextIs (step (((startWith 0xF265 [(3, 9)]).writeBytes 0x400 [1, 2, 3, 4]).setI 0x400)) (fun t =>
    t.getV 0 == 1 && t.getV 1 == 2 && t.getV 2 == 3 && t.getV 3 == 9 && t.i == 0x400) = true := by decide

/-- Memory stays canonical: writing what an address reads as after reset lists nothing. -/
theorem test_memory_canonical : (State.reset.writeByte 0x50 0xF0).mem = [] ∧
    (State.reset.writeByte 0x50 0).mem = [(0x50, 0)] := by decide

/-! ## Display (95_test_vectors.md section 2.6) -/

/-- A sprite row at `0x300`, `I` there. -/
def sprite (op : Word) (bytes : List Byte) (l : List (RegIdx × Byte)) : State :=
  ((startWith op l).writeBytes 0x300 bytes).setI 0x300

theorem test_cls : nextIs (step { start 0x00E0 with fb := Vector.replicate 32 (BitVec.allOnes 64) }) (fun t =>
    t.fb == Framebuffer.clear && t.draw && t.getV 0xF == 0 && t.pc == 0x202) = true := by decide

/-- Cells 62 to 69: columns 62 and 63 of row 0, then columns 0 to 5 of row 1. -/
theorem test_drw_wrap : nextIs (step (sprite 0xD121 [0xFF] [(1, 62), (2, 0), (0xF, 0x55)])) (fun t =>
    t.fb == (Framebuffer.clear.set 0 0xC000000000000000).set 1 0x3F && t.getV 0xF == 0 && t.draw) = true := by decide

theorem test_drw_collision : nextIs (step { sprite 0xD121 [0xC0] [] with fb := Framebuffer.clear.flip 0 }) (fun t =>
    t.fb == Framebuffer.clear.flip 1 && t.getV 0xF == 1 && t.draw) = true := by decide

/-! ## Keys and timers (95_test_vectors.md section 2.7) -/

/-- `op` at `0x220`, with `V4 = 5` and the keys of `mask` pressed. -/
def keyed (op : Word) (mask : BitVec 16) : State := ((startAt 0x220 op).setV 4 5).setKey (keysOfMask mask)

theorem test_skp : nextIs (step (keyed 0xE49E 0x0020)) (fun t => t.pc == 0x224) = true := by decide
theorem test_skp_no_key : nextIs (step ((keyed 0xE49E 0xFFFF).setV 4 0x10)) (fun t => t.pc == 0x222) = true := by decide
theorem test_sknp : nextIs (step (keyed 0xE4A1 0)) (fun t => t.pc == 0x224) = true := by decide
theorem test_sknp_not : nextIs (step (keyed 0xE4A1 0x0020)) (fun t => t.pc == 0x222) = true := by decide
theorem test_ldVxDt : nextIs (step ((start 0xF107).setDt 0x3C)) (fun t => t.getV 1 == 0x3C && t.dt == 0x3C) = true := by
  decide
theorem test_ldDtVx : nextIs (step (startWith 0xF115 [(1, 0x3C)])) (fun t => t.dt == 0x3C) = true := by decide
theorem test_ldStVx : nextIs (step (startWith 0xF118 [(1, 2)])) (fun t => t.st == 2 && t.soundActive) = true := by decide
theorem test_ldVxK_waits : nextIs (step (startAt 0x230 0xF20A)) (fun t =>
    t.wait == some 2 && t.pc == 0x230 && statusOf t == .waiting) = true := by decide
theorem test_ldVxK_takes : nextIs (step ((startAt 0x230 0xF20A).setKeyLatch (some 0xC))) (fun t =>
    t.getV 2 == 0xC && t.pc == 0x232 && t.keyLatch == none && statusOf t == .executed) = true := by decide
theorem test_wait_ends : nextIs (step (((startAt 0x230 0xF20A).setWait (some 2)).setKeyLatch (some 7))) (fun t =>
    t.getV 2 == 7 && t.wait == none && t.pc == 0x232 && t.keyLatch == none) = true := by decide
theorem test_tick : (fun t : State => (t.dt, t.st)) (transact .tickTimers ((State.reset.setDt 1).setSt 5)).1 = (0, 4) := by
  decide

/-- A key-down does not set `KEY` (section 2.7). -/
theorem test_key_down : nextIs (step (transact (.keyDown 5) (keyed 0xE49E 0)).1) (fun t => t.pc == 0x222) = true := by
  decide

/-! ## Witnesses: concrete states that meet the hypotheses of each statement, at the ends of its ranges -/

/-- A faulted core: the step after reset raised `UnknownOpcode`. -/
def faulted : State :=
  (State.reset.setFault (some ⟨.unknownOpcode, 0x200, some 0, none⟩))

/-- A faulted core ignores a `load` (R261); that the reply is `done` is the model's choice (log entry 13). -/
theorem test_load_faulted : transact (.load [0x12]) faulted = (faulted, .done) := by decide

/-- Parameters with an unbounded stack. -/
def unbounded : Params := { Params.default with stackLimit := none }

/-- The step from `s` executes `i`: the form `Executes` unfolds to. -/
theorem executes_of {s : State} {i : Instr} (op : Word) (hf : s.fault = none) (hw : s.wait = none)
    (h : s.fetch = some op) (hd : decode s.params.sysPolicy op = .ok i) : Executes s i := ⟨hf, hw, op, h, hd⟩

/-- The highest legal font base. -/
def highFont : Params := { Params.default with fontBase := 0xFB0 }

/-- The font at the default place and at the highest one, and the bytes beside it. -/
theorem witness_ResetGivesTheTable : Params.default.Wf ∧ highFont.Wf ∧ 2047 < 2048 ∧
    (0x4F < 4096 ∧ 0x4F < Params.default.fontBase.toNat) ∧ (0xA0 < 4096 ∧ Params.default.fontBase.toNat + 80 ≤ 0xA0) ∧
    (0xFAF < 4096 ∧ 0xFAF < highFont.fontBase.toNat) ∧
    (State.resetWith highFont).readByte 0xFAF = 0 ∧ (State.resetWith highFont).readByte 0xFB0 = 0xF0 ∧
    (State.resetWith highFont).readByte 0xFFF = 0x80 ∧ State.reset.readByte 0x4F = 0 ∧ State.reset.readByte 0xA0 = 0 := by
  decide

theorem witness_CanonicalMemoriesThatReadAlikeAreEqual :
    Memory.wf Params.default [(0x50, 0), (0xFFF, 1)] ∧
    ∀ a, Memory.read Params.default [(0x50, 0), (0xFFF, 1)] a = Memory.read Params.default [(0x50, 0), (0xFFF, 1)] a :=
  ⟨by decide, fun _ => rfl⟩

theorem witness_FetchIsBigEndian : State.reset.pc.toNat + 1 ≤ 0xFFF ∧ (startAt 0xFFE 0x1234).pc.toNat + 1 ≤ 0xFFF ∧
    (startAt 0xFFE 0x1234).fetch = some 0x1234 := by decide

theorem witness_DecodeOfEncodeIsTheInstruction : (Instr.sys 0x0EF).wellFormed = true ∧
    (Instr.drw 0xF 0xF 0xF).wellFormed = true ∧ ∀ nnn, Instr.cls ≠ .sys nnn := ⟨by decide, by decide, nofun⟩

theorem witness_EncodeOfDecodeIsTheOpcode : decode .nop 0x0123 = .ok (.sys 0x123) ∧
    decode .fault 0xFF65 = .ok (.ldVxMem 0xF) := by decide

theorem witness_DecodingMatchesTheRowsStrictly : decode .nop 0x00E1 = .ok (.sys 0x0E1) ∧
    (Instr.cls.row.Matches 0x00E0 ∧ (Instr.sys 0).row.Matches 0x00E0) ∧
    (Instr.ret.row.Matches 0x00EE ∧ (Instr.sys 0).row.Matches 0x00EE) ∧
    (Instr.ldVy 1 2).row.Matches 0x8120 := by decide

theorem witness_StepRunsTheDecodedInstruction :
    ((start 0x6A12).fault = none ∧ (start 0x6A12).wait = none ∧ (start 0x6A12).pc.toNat + 1 ≤ 0xFFF ∧
      decode (start 0x6A12).params.sysPolicy
        (opcodeOfBytes ((start 0x6A12).readByte 0x200) ((start 0x6A12).readByte 0x201)) = .ok (.ldKk 0xA 0x12)) ∧
    ((startAt 0xFFE 0x2300).fault = none ∧ (startAt 0xFFE 0x2300).wait = none ∧
      (startAt 0xFFE 0x2300).pc.toNat + 1 ≤ 0xFFF ∧
      decode (startAt 0xFFE 0x2300).params.sysPolicy
        (opcodeOfBytes ((startAt 0xFFE 0x2300).readByte 0xFFE) ((startAt 0xFFE 0x2300).readByte 0xFFF)) =
        .ok (.call 0x300)) := by decide

theorem witness_OnlyAFaultedCoreStops : State.reset.fault = none := rfl

theorem witness_FaultedCoreChangesNothing : faulted.fault = some ⟨.unknownOpcode, 0x200, some 0, none⟩ ∧
    Transaction.tickTimers ≠ .reset := by decide

theorem witness_FetchPastMemoryFaults :
    ((State.reset.setPc 0xFFF).fault = none ∧ (State.reset.setPc 0xFFF).wait = none ∧
      0xFFF < (State.reset.setPc 0xFFF).pc.toNat + 1) ∧
    ((State.reset.setPc 0x10FE).fault = none ∧ (State.reset.setPc 0x10FE).wait = none ∧
      0xFFF < (State.reset.setPc 0x10FE).pc.toNat + 1) ∧
    raises (State.reset.setPc 0xFFF) ⟨.memoryFault, 0xFFF, none, some 0x1000⟩ = true ∧
    raises (State.reset.setPc 0x10FE) ⟨.memoryFault, 0x10FE, none, some 0x10FE⟩ = true := by decide

theorem witness_UnknownOpcodeIsRaisedByDecode :
    (State.reset.fault = none ∧ State.reset.wait = none ∧ State.reset.fetch = some 0 ∧ IllegalOpcode .fault 0) ∧
    ((start 0x8128).fault = none ∧ (start 0x8128).wait = none ∧ (start 0x8128).fetch = some 0x8128 ∧
      IllegalOpcode .nop 0x8128) ∧
    ((start 0x1234).fetch = some 0x1234 ∧ ¬IllegalOpcode .fault 0x1234) :=
  ⟨⟨rfl, rfl, by decide, .inl (by decide)⟩, ⟨rfl, rfl, by decide, .inr (.inr (.inl (by decide)))⟩, by decide,
    by simp [IllegalOpcode]⟩

theorem witness_FaultingStepKeepsNothing :
    (∃ t, step (start 0x00EE) = .next t ∧ (t.fault == some ⟨.stackUnderflow, 0x200, some 0x00EE, none⟩) = true) ∧
    (start 0x00EE).fetch = some 0x00EE ∧
    (∃ t, step (State.reset.setPc 0xFFF) = .next t ∧
      (t.fault == some ⟨.memoryFault, 0xFFF, none, some 0x1000⟩) = true) ∧
    (State.reset.setPc 0xFFF).fetch = none :=
  ⟨exists_of_nextIs (by decide), by decide, exists_of_nextIs (by decide), by decide⟩

theorem witness_EveryErrorHasItsCause :
    raises (start 0xFFFF) ⟨.unknownOpcode, 0x200, some 0xFFFF, none⟩ = true ∧
    raises (State.reset.setPc 0xFFF) ⟨.memoryFault, 0xFFF, none, some 0x1000⟩ = true ∧
    raises ((start 0xD122).setI 0xFFF) ⟨.memoryFault, 0x200, some 0xD122, some 0x1000⟩ = true ∧
    raises ((start 0xF033).setI 0xFFE) ⟨.memoryFault, 0x200, some 0xF033, some 0x1000⟩ = true ∧
    raises ((start 0xF155).setI 0xFFF) ⟨.memoryFault, 0x200, some 0xF155, some 0x1000⟩ = true ∧
    raises ((start 0xF165).setI 0xFFF) ⟨.memoryFault, 0x200, some 0xF165, some 0x1000⟩ = true ∧
    raises (start 0x00EE) ⟨.stackUnderflow, 0x200, some 0x00EE, none⟩ = true ∧
    raises (withStack (start 0x2300) (List.replicate 16 0x202)) ⟨.stackOverflow, 0x200, some 0x2300, none⟩ = true := by
  decide

/-- A step that changes each piece of state, by each of its writers. -/
theorem witness_OnlyItsWritersChangeState :
    nextIs (step (start 0xA001)) (fun t => t.i != 0 && t.fault == none && t.keyLatch == none) = true ∧
    nextIs (step (startWith 0xF11E [(1, 1)])) (fun t => t.i != 0) = true ∧
    nextIs (step (start 0xF129)) (fun t => t.i != 0) = true ∧
    nextIs (step (withStack (start 0x00EE) [0x300])) (fun t => t.stack != [0x300]) = true ∧
    nextIs (step (start 0x2300)) (fun t => t.stack != []) = true ∧
    nextIs (step (startWith 0xF115 [(1, 1)])) (fun t => t.dt != 0) = true ∧
    nextIs (step (startWith 0xF118 [(1, 1)])) (fun t => t.st != 0) = true ∧
    nextIs (step { start 0x00E0 with fb := Framebuffer.clear.flip 0 }) (fun t => t.fb != Framebuffer.clear.flip 0) = true ∧
    nextIs (step (sprite 0xD121 [0x80] [])) (fun t => t.fb != Framebuffer.clear) = true ∧
    nextIs (step ((startWith 0xF133 [(1, 1)]).setI 0x300)) (fun t => t.mem != (start 0xF133).mem) = true ∧
    nextIs (step ((startWith 0xF055 [(0, 1)]).setI 0x300)) (fun t => t.mem != (start 0xF055).mem) = true ∧
    nextIs (step (start 0xC300)) (fun t => t.draws != 0) = true ∧
    nextIs (step (start 0x61AB)) (fun t => t.getV 1 != 0 && t.pc != 0x200 && t.ir != 0) = true ∧
    nextIs (step (v12F 0x8124 0xFF 0x01 0)) (fun t => t.getV 1 != 0xFF && t.getV 0xF != 0) = true ∧
    nextIs (step ((start 0xF165).setI 0x200)) (fun t => t.getV 0 != 0 && t.getV 1 != 0) = true ∧
    nextIs (step ((start 0xF20A).setWait (some 2) |>.setKeyLatch (some 7))) (fun t => t.getV 2 != 0) = true ∧
    nextIs (step (start 0x00E0)) (fun t => t.draw) = true ∧
    nextIs (step ((start 0x1200).setKeyLatch (some 7))) (fun t => t.keyLatch != some 7) = true ∧
    nextIs (step State.reset) (fun t => t.fault != none) = true ∧
    nextIs (step (start 0xF20A)) (fun t => t.wait != none) = true ∧
    nextIs (step ((start 0xF20A).setWait (some 2) |>.setKeyLatch (some 7))) (fun t => t.wait != some 2) = true := by
  decide

theorem witness_DrawFlagAfterAStep :
    (∃ t, step (start 0x00E0) = .next t ∧ (t.draw && t.fault == none) = true) ∧
    (∃ t, step ((start 0x1200).setDraw true) = .next t ∧ (!t.draw) = true) ∧
    (∃ t, step ((start 0xD122).setI 0xFFF) = .next t ∧ (!t.draw && t.fault != none) = true) :=
  ⟨exists_of_nextIs (by decide), exists_of_nextIs (by decide), exists_of_nextIs (by decide)⟩

theorem witness_WaitingStepMakesTheWaitCheck :
    (((start 0xF20A).setWait (some 2)).setKeyLatch (some 0xF)).fault = none ∧
    (((start 0xF20A).setWait (some 2)).setKeyLatch (some 0xF)).wait = some 2 ∧
    (((start 0xF20A).setWait (some 2)).setKeyLatch (some 0xF)).keyLatch = some 0xF ∧
    ((start 0xF20A).setWait (some 2)).keyLatch = none ∧ ((start 0xF20A).setWait (some 2)).wait = some 2 := by decide

theorem witness_OnlyTheKeyWaitTakesMoreSteps :
    (transact .step (start 0xF20A)).2 = .status .waiting ∧ Executes (start 0xF20A) (.ldVxK 2) ∧
    (transact .step ((start 0xF20A).setWait (some 2))).2 = .status .waiting ∧
    (transact .step (start 0x1200)).2 = .status .executed :=
  ⟨by decide, executes_of 0xF20A rfl rfl (by decide) (by decide), by decide, by decide⟩

theorem witness_DrawAndIrAreNotRead : (start 0x1200).fault = none ∧ (start 0x1200).wait = none ∧
    (start 0x1200).pc.toNat + 1 ≤ 0xFFF ∧ ({ start 0x1200 with draw := true, ir := 5 } : State) ≠ start 0x1200 := by
  decide

theorem witness_OnlyTheKeySkipsReadTheKeys :
    (∀ x, ¬Executes (start 0x1234) (.skp x) ∧ ¬Executes (start 0x1234) (.sknp x)) ∧
    ∃ t, step (start 0x1234) = .next t ∧ (t.pc == 0x234) = true := by
  have other : ∀ i, Executes (start 0x1234) i → i = .jp 0x234 := by
    rintro i ⟨-, -, op, h, hd⟩
    have word : (start 0x1234).fetch = some 0x1234 := by decide
    rw [word] at h
    obtain rfl := Option.some.inj h
    have row : decode (start 0x1234).params.sysPolicy 0x1234 = .ok (.jp 0x234) := by decide
    rw [row] at hd
    exact (Except.ok.inj hd).symm
  refine ⟨fun x => ⟨fun h => ?_, fun h => ?_⟩, exists_of_nextIs (by decide)⟩ <;> cases other _ h

theorem witness_SysAdvancesOrIsUnknown : (withParams State.reset { Params.default with sysPolicy := .nop }).params.sysPolicy
    = .nop ∧ State.reset.params.sysPolicy = .fault := by decide

theorem witness_CallPushesTheAddressAfterIt :
    (∀ n, (withStack State.reset (List.replicate 15 0x202)).params.stackLimit = some n →
      (withStack State.reset (List.replicate 15 0x202)).sp < n) ∧
    (∀ n, (withParams (withStack State.reset (List.replicate 16 0x202)) unbounded).params.stackLimit = some n →
      (withParams (withStack State.reset (List.replicate 16 0x202)) unbounded).sp < n) :=
  ⟨fun n h => by obtain rfl := Option.some.inj h; decide, fun n h => by cases h⟩

theorem witness_CallOnAFullStackOverflows :
    (withStack State.reset (List.replicate 16 0x202)).params.stackLimit = some 16 ∧
    16 ≤ (withStack State.reset (List.replicate 16 0x202)).sp ∧
    (withParams State.reset { Params.default with stackLimit := some 0 }).params.stackLimit = some 0 := by decide

theorem witness_RetPopsOrUnderflows : (withStack State.reset [0x300, 0x202]).stack = [0x300] ++ [0x202] ∧
    State.reset.stack = [] := by decide

theorem witness_CallThenReturnResumesAfterTheCall :
    Executes ((start 0x2300).writeBytes 0x300 [0x00, 0xEE]) (.call 0x300) ∧
    (∀ n, ((start 0x2300).writeBytes 0x300 [0x00, 0xEE]).params.stackLimit = some n →
      ((start 0x2300).writeBytes 0x300 [0x00, 0xEE]).sp < n) ∧
    ((start 0x2300).writeBytes 0x300 [0x00, 0xEE]).readByte 0x300 = 0x00 ∧
    ((start 0x2300).writeBytes 0x300 [0x00, 0xEE]).readByte 0x301 = 0xEE ∧ (0x300 : Addr12).toNat + 1 ≤ 0xFFF ∧
    nextIs (step ((start 0x2300).writeBytes 0x300 [0x00, 0xEE])) (fun t =>
      nextIs (step t) fun u => u.pc == 0x202 && u.stack == []) = true :=
  ⟨executes_of 0x2300 rfl rfl (by decide) (by decide), fun n h => by obtain rfl := Option.some.inj h; decide,
    by decide, by decide, by decide, by decide⟩

/-- Both sides of each condition. -/
theorem witness_RegisterSkips :
    (State.reset.getV 3).toNat = (0x00 : Byte).toNat ∧ (State.reset.getV 3).toNat ≠ (0xFF : Byte).toNat ∧
    (State.reset.getV 1).toNat = (State.reset.getV 2).toNat ∧
    ((State.reset.setV 1 7).getV 1).toNat ≠ ((State.reset.setV 1 7).getV 2).toNat := by decide

/-- Registers other than `VF`, and operands on each side of each flag. -/
theorem witness_ArithmeticSetsResultAndFlag : (0 : RegIdx) ≠ 0xF ∧ (0xE : RegIdx) ≠ 0xF ∧
    gives (v12F 0x8124 0xFF 0x00 9) 0xFF 0 = true ∧ gives (v12F 0x8124 0xFF 0x01 9) 0x00 1 = true ∧
    gives (v12F 0x8125 0x05 0x07 9) 0xFE 0 = true ∧ gives (v12F 0x8125 0x07 0x07 9) 0x00 1 = true ∧
    gives (v12F 0x8126 0x00 0x04 9) 0x02 0 = true ∧ gives (v12F 0x8126 0x00 0x05 9) 0x02 1 = true ∧
    gives (v12F 0x8127 0x05 0x03 9) 0xFE 0 = true ∧ gives (v12F 0x8127 0x09 0x09 9) 0x00 1 = true := by decide

theorem witness_ShiftLeftFlagFollowsItsMode : (0xE : RegIdx) ≠ 0xF ∧ State.reset.params.shlVfMode = .raw ∧
    (withParams State.reset { Params.default with shlVfMode := .normalised }).params.shlVfMode = .normalised ∧
    gives (v12F 0x812E 0x00 0x7F 9) 0xFE 0x00 = true ∧ gives (v12F 0x812E 0x00 0x80 9) 0x00 0x80 = true := by decide

theorem witness_FlagOpsOnVFKeepTheLaterWrite : State.reset.params.vfWriteOrder = .flagLast ∧
    (withParams State.reset { Params.default with vfWriteOrder := .resultLast }).params.vfWriteOrder = .resultLast ∧
    gives (v12F 0x8F17 0x07 0 0x02) 0x07 0x01 = true ∧
    gives (withParams (v12F 0x8F17 0x07 0 0x02) { Params.default with vfWriteOrder := .resultLast }) 0x07 0x05 = true := by
  decide

theorem witness_IndexArithmetic : State.reset.params.Wf ∧ ({ Params.default with fontBase := 0xFB0 } : Params).Wf ∧
    ¬({ Params.default with fontBase := 0xFB1 } : Params).Wf := by decide

theorem witness_BcdStoresThreeDigits : (State.reset.setI 0xFFD).i.toNat + 2 ≤ 0xFFF ∧ State.reset.i.toNat + 2 ≤ 0xFFF := by
  decide

theorem witness_RegisterDumpStoresTheRegisters : (State.reset.setI 0xFF0).i.toNat + (0xF : RegIdx) ≤ 0xFFF ∧
    (State.reset.setI 0xFFF).i.toNat + (0 : RegIdx) ≤ 0xFFF := by decide

theorem witness_RegisterLoadReadsTheBytes : (State.reset.setI 0xFF0).i.toNat + (0xF : RegIdx) ≤ 0xFFF ∧
    (State.reset.setI 0xFFF).i.toNat + (0 : RegIdx) ≤ 0xFFF ∧ (0 : RegIdx) < 1 := by decide

theorem witness_AccessPastMemoryFaults : (State.reset.setI 0xFFF).i.toNat ≤ 0xFFF ∧
    0xFFF < (State.reset.setI 0xFFE).i.toNat + 2 ∧ 0xFFF < (State.reset.setI 0xFFF).i.toNat + (1 : RegIdx) ∧
    (2 : Fin 16) ≠ 0 ∧ 0xFFF < (State.reset.setI 0xFFF).i.toNat + (2 : Fin 16) - 1 := by decide

theorem witness_DumpThenLoadRestoresTheRegisters :
    (State.reset.setI 0xFF0).i.toNat + (0xF : RegIdx) ≤ 0xFFF ∧
    ∃ t, (exec (.ldMemVx 0xF) (State.reset.setI 0xFF0) = .next t ∧ (t.pc == 0x202) = true) ∧ (t.setV 0 9).i = t.i ∧
      ∀ r ≤ (0xF : RegIdx), (t.setV 0 9).readByte ((State.reset.setI 0xFF0).i.toNat + r) =
        t.readByte ((State.reset.setI 0xFF0).i.toNat + r) := by
  obtain ⟨t, h⟩ := exists_of_nextIs (r := exec (.ldMemVx 0xF) (State.reset.setI 0xFF0)) (p := fun t => t.pc == 0x202)
    (by decide)
  exact ⟨by decide, t, h, rfl, fun _ _ => rfl⟩

theorem witness_SpriteCellsAreAllDifferent : 191 ∈ drawnCells (sprite 0xD121 [0x80] [(1, 255), (2, 255)]) 1 2 1 := by
  decide

theorem witness_DrawFlipsThePlottedCells :
    ((0 : Fin 16) = 0 ∨ (State.reset.setI 0xFFF).i.toNat + (0 : Fin 16) - 1 ≤ 0xFFF) ∧
    ((1 : Fin 16) = 0 ∨ (State.reset.setI 0xFFF).i.toNat + (1 : Fin 16) - 1 ≤ 0xFFF) ∧
    ((15 : Fin 16) = 0 ∨ (State.reset.setI 0xFF1).i.toNat + (15 : Fin 16) - 1 ≤ 0xFFF) ∧
    Plotted (sprite 0xD121 [0x01] []) 1 2 1 7 ∧ ¬Plotted (sprite 0xD121 [0x01] []) 1 2 0 7 :=
  ⟨by decide, by decide, by decide, ⟨0, 7, by decide, by decide, by decide, by decide⟩, fun ⟨_, _, h, _⟩ => by omega⟩

theorem witness_DoubleDrawRestoresTheScreen : (1 : RegIdx) ≠ 0xF ∧ (2 : RegIdx) ≠ 0xF ∧
    ((1 : Fin 16) = 0 ∨ (sprite 0xD121 [0x01] []).i.toNat + (1 : Fin 16) - 1 ≤ 0xFFF) ∧
    Plotted (sprite 0xD121 [0x01] []) 1 2 1 7 ∧ (sprite 0xD121 [0x01] []).fb.cell 7 = false :=
  ⟨by decide, by decide, by decide, ⟨0, 7, by decide, by decide, by decide, by decide⟩, by decide⟩

theorem witness_DoubleDrawCollidesOnEveryScreen : (1 : RegIdx) ≠ 0xF ∧ (2 : RegIdx) ≠ 0xF ∧
    nextIs (exec (.drw 1 2 1) (sprite 0xD121 [0x01] [])) (fun t => t.fault == none &&
      nextIs (exec (.drw 1 2 1) t) fun u => u.getV 0xF == 1) = true ∧
    (sprite 0xD121 [0x01] []).fault = none ∧
    ∃ row < (1 : Fin 16).val, (sprite 0xD121 [0x01] []).readByte ((sprite 0xD121 [0x01] []).i.toNat + row) ≠ 0 :=
  ⟨by decide, by decide, by decide, by decide, 0, by decide, by decide⟩

theorem witness_KeySkips :
    (∃ k : KeyCode, ((keyed 0xE49E 0x0020).getV 4).toNat = k.val ∧ (keyed 0xE49E 0x0020).key[k] = true) ∧
    (¬∃ k : KeyCode, (((keyed 0xE49E 0xFFFF).setV 4 0x10).getV 4).toNat = k.val ∧
      ((keyed 0xE49E 0xFFFF).setV 4 0x10).key[k] = true) := by decide

theorem witness_KeyWaitTakesTheKeyOrWaits : (State.reset.setKeyLatch (some 0xF)).keyLatch = some 0xF ∧
    State.reset.keyLatch = none := by decide

theorem witness_TickCountsTheTimersDown : State.reset.fault = none ∧ faulted.fault ≠ none := by decide

theorem witness_LoadCopiesTheImageOrRefuses : State.reset.fault = none ∧ ([] : List Byte).length ≤ 3584 ∧
    (List.replicate 3584 (0x12 : Byte)).length ≤ 3584 ∧ 3584 < (List.replicate 3585 (0x12 : Byte)).length ∧
    (0 < [(0x12 : Byte)].length ∧ ((transact (.load [0x12]) State.reset).1.readBytes 0x200 2 = [0x12, 0])) :=
  ⟨rfl, by decide, by rw [List.length_replicate], by rw [List.length_replicate]; decide, by decide, by decide⟩

theorem witness_HostInputsSetTheirOwnState : State.reset.fault = none := rfl

theorem witness_InvariantHoldsAtReset : Params.default.Wf ∧ unbounded.Wf := by decide

/-- A `RET` at `0x200`, the highest return address and the highest index. -/
def returning : State := { State.reset with mem := [(0x201, 0xEE)], stack := [0x1000], i := 0xFFF }

theorem invariant_returning : Invariant returning where
  params := by decide
  memory := by decide
  index := by decide
  pc := by decide
  depth := fun n h => by
    have h : some 16 = some n := h
    cases h
    decide
  returns := fun w h => by
    have h : w ∈ [(0x1000 : Word)] := h
    obtain rfl := List.mem_singleton.1 h
    decide
  waiting := nofun
  fault := nofun

theorem witness_StepKeepsTheInvariant :
    Invariant returning ∧ ∃ t, step returning = .next t ∧ (t.fault == none && t.pc == 0x1000) = true :=
  ⟨invariant_returning, exists_of_nextIs (by decide)⟩

/-- A step and a load that change that state. -/
theorem witness_TransactionsKeepTheInvariant : Invariant returning ∧ (transact .step returning).1.pc = 0x1000 ∧
    (transact (.load [0x6A]) returning).1.mem = [(0x200, 0x6A), (0x201, 0xEE)] := ⟨invariant_returning, by decide, by decide⟩

theorem witness_EveryReachableStateMeetsTheInvariant :
    Reachable (runSchedule [.load [0x6A, 0x12], .step, .tickTimers] State.reset) :=
  ⟨Params.default, by decide, _, rfl⟩

end Sys2Proof.Tests
end

section
/-! PROOF. What a frame says of the small updates, and control flow (spec/41_control_flow.md): the jump, the return and the
skips on registers and immediates. -/

namespace Sys2Proof.Machine

/-! ### Frames of the small updates -/

theorem Field.Same.trans {f : Field} {s t u : State} (first : f.Same s t) (second : f.Same t u) : f.Same s u := by
  cases f with
  | v | mem => exact fun a => (second a).trans (first a)
  | _ => exact Eq.trans second first

theorem FrameExcept.trans {l m : List Field} {s t u : State} (first : FrameExcept l s t) (second : FrameExcept m t u) :
    FrameExcept (l ++ m) s u := by
  intro f hf
  obtain ⟨hl, hm⟩ := not_or.1 (mt List.mem_append.2 hf)
  exact (first f hl).trans (second f hm)

theorem frameExcept_setPc (s : State) (w : Word) : FrameExcept [.pc] s (s.setPc w) := by
  intro f hf
  cases f with
  | pc => exact absurd List.mem_cons_self hf
  | v | mem => exact fun _ => rfl
  | _ => rfl

theorem frameExcept_setStack (s : State) (l : List Word) : FrameExcept [.stack] s (s.setStack l) := by
  intro f hf
  cases f with
  | stack => exact absurd List.mem_cons_self hf
  | v | mem => exact fun _ => rfl
  | _ => rfl

theorem frameExcept_setFault (s : State) (r : Option FaultRecord) : FrameExcept [.fault] s (s.setFault r) := by
  intro f hf
  cases f with
  | fault => exact absurd List.mem_cons_self hf
  | v | mem => exact fun _ => rfl
  | _ => rfl

/-! ### How the shared ends of an instruction meet the obligations' words -/

/-- An instruction that ends in `raise` is that error in the sense of `Raises`. -/
theorem raises_of_exec {i : Instr} {kind : FaultKind} {addr : Option Word} {s : State}
    (h : exec i s = raise kind addr s) : Raises i kind addr s :=
  ⟨_, h, rfl, frameExcept_setFault s _⟩

/-- A skip answers a next state in which only `PC` is new. -/
theorem skipIf_eq (c : Bool) (s : State) : skipIf c s = .next (s.setPc (s.pc + if c then 4 else 2)) := by
  cases c <;> rfl

/-- An instruction that ends in `skipIf c` skips by any condition that `c` decides. -/
theorem skipsIf_of_exec {i : Instr} {c : Bool} {condition : Prop} {s : State} (h : exec i s = skipIf c s)
    (decides : c = true ↔ condition) : SkipsIf i condition s := by
  refine ⟨_, h.trans (skipIf_eq c s), fun holds => ?_, fun fails => ?_, frameExcept_setPc s _⟩
  · simp [decides.2 holds]
  · simp [mt decides.1 fails]

theorem byte_beq_iff_toNat_eq (a b : Byte) : (a == b) = true ↔ a.toNat = b.toNat :=
  beq_iff_eq.trans BitVec.toNat_inj.symm

theorem byte_bne_iff_toNat_ne (a b : Byte) : (a != b) = true ↔ a.toNat ≠ b.toNat :=
  bne_iff_ne.trans BitVec.toNat_inj.symm.not

/-! ### The jump and the return -/

theorem exec_jp (s : State) (nnn : Addr12) : exec (.jp nnn) s = .next (s.setPc (addrOf nnn)) := rfl

theorem exec_ret_of_append {s : State} {rest : List Word} {w : Word} (h : s.stack = rest ++ [w]) :
    exec .ret s = .next ((s.setStack rest).setPc w) := by
  simp only [exec, execRet, State.pop_append s rest w h]
  rfl

theorem exec_ret_of_empty {s : State} (h : s.stack = []) : exec .ret s = raise .stackUnderflow none s := by
  simp only [exec, execRet, (State.pop_none s).2 h]

/-! ### The obligations -/

/-- Settles O25: `Goto(nnn)` writes `PC` alone. -/
theorem jumpGoesToItsAddress : Obligations.JumpGoesToItsAddress := by
  intro s nnn
  exact ⟨_, exec_jp s nnn, addrOf_toNat nnn, frameExcept_setPc s _⟩

/-- Settles O29: the two ends of `Pop()`. -/
theorem retPopsOrUnderflows : Obligations.RetPopsOrUnderflows := by
  intro s
  constructor
  · intro rest w h
    exact ⟨_, exec_ret_of_append h, rfl, rfl, (frameExcept_setStack s rest).trans (frameExcept_setPc _ w)⟩
  · intro empty
    exact raises_of_exec (exec_ret_of_empty empty)

/-- Settles O31: all four are `skipIf` of a comparison of two bytes, which is a comparison of their values. -/
theorem registerSkips : Obligations.RegisterSkips := by
  intro s x y kk
  refine ⟨?seKk, ?sneKk, ?seVy, ?sneVy⟩
  case seKk => exact skipsIf_of_exec rfl (byte_beq_iff_toNat_eq (s.getV x) kk)
  case sneKk => exact skipsIf_of_exec rfl (byte_bne_iff_toNat_ne (s.getV x) kk)
  case seVy => exact skipsIf_of_exec rfl (byte_beq_iff_toNat_eq (s.getV x) (s.getV y))
  case sneVy => exact skipsIf_of_exec rfl (byte_bne_iff_toNat_ne (s.getV x) (s.getV y))

end Sys2Proof.Machine
end

section
/-! PROOF. Loads and arithmetic of the registers (spec/42_alu.md): how an instruction that ends in a write of a result, or
of a result and a flag, meets the obligations' words, and the results and flags as numbers. -/

namespace Sys2Proof.Machine

/-! ### What the writes to the registers leave unchanged -/

theorem frameExcept_registers (s : State) (v : Vector Byte 16) : FrameExcept [.v] s { s with v := v } := by
  intro f hf
  cases f with
  | v => exact absurd List.mem_cons_self hf
  | mem => exact fun _ => rfl
  | _ => rfl

theorem frameExcept_setResultAndFlag (s : State) (x : RegIdx) (res flag : Byte) :
    FrameExcept [.v] s (s.setResultAndFlag x res flag) := by
  obtain ⟨v, hv⟩ := s.setResultAndFlag_eq x res flag
  exact hv ▸ frameExcept_registers s v

theorem regsExcept_setV (s : State) (x : RegIdx) (b : Byte) : RegsExcept [x] s (s.setV x b) :=
  fun r hr => s.setV_getV_other x b r (List.ne_of_not_mem_cons hr)

theorem regsExcept_setResultAndFlag (s : State) (x : RegIdx) (res flag : Byte) :
    RegsExcept [x, regF] s (s.setResultAndFlag x res flag) := by
  intro r hr
  obtain ⟨notResult, notFlag⟩ : r ≠ x ∧ r ≠ regF := by simpa using hr
  simp [State.setResultAndFlag_getV, notResult, notFlag]

/-! ### How the two ends of a register op meet the obligations' words -/

/-- An instruction that writes the byte `res` to `V[x]` and advances sets `V[x]` to the number that `res` stands for. -/
theorem setsRegister_of_exec {i : Instr} {x : RegIdx} {res : Byte} {n : Nat} {s : State}
    (h : exec i s = complete .advance (s.setV x res)) (value : res.toNat = n) : SetsRegister i x n s :=
  ⟨_, h, by simpa using value, rfl, regsExcept_setV s x res,
    (frameExcept_registers s _).trans (frameExcept_setPc _ _)⟩

/-- An instruction that makes the two writes of R138 and advances sets `V[x]` and `VF`, if these are different, to the
numbers that its result and its flag stand for. -/
theorem setsResultAndFlag_of_exec {i : Instr} {x : RegIdx} {res flag : Byte} {n : Int} {f : Nat} {s : State}
    (h : exec i s = complete .advance (s.setResultAndFlag x res flag)) (hx : x ≠ regF)
    (value : (res.toNat : Int) = n) (flagValue : flag.toNat = f) : SetsResultAndFlag i x n f s := by
  refine ⟨_, h, ?result, ?flag, ?pc, regsExcept_setResultAndFlag s x res flag, ?frame⟩
  case result => simpa [State.setResultAndFlag_getV, hx] using value
  case flag => simpa [State.setResultAndFlag_getV, hx] using flagValue
  case pc => exact congrArg (· + 2) (frameExcept_setResultAndFlag s x res flag .pc (by decide))
  case frame => exact (frameExcept_setResultAndFlag s x res flag).trans (frameExcept_setPc _ _)

/-! ### Results and flags as numbers -/

/-- A sum of two bytes, in the integers (R145). -/
theorem natCast_toNat_add (a b : Byte) : ((a + b).toNat : Int) = (a.toNat + b.toNat : Int) % 256 := by
  rw [BitVec.toNat_add]
  omega

/-- A difference of two bytes is the integers' one modulo 256, negative ones included (R146, R148). -/
theorem natCast_toNat_sub (a b : Byte) : ((a - b).toNat : Int) = (a.toNat - b.toNat : Int) % 256 := by
  rw [BitVec.toNat_sub]
  omega

/-- A byte shifted right by one is half of it, rounded down (R147). -/
theorem natCast_toNat_shiftRight_one (b : Byte) : ((b >>> 1).toNat : Int) = (b.toNat : Int) / 2 := by
  rw [BitVec.toNat_ushiftRight, Nat.shiftRight_one, Int.natCast_ediv, Nat.cast_ofNat]

@[simp] theorem bool01_decide_toNat (p : Prop) [Decidable p] : (bool01 (decide p)).toNat = if p then 1 else 0 := by
  by_cases hp : p <;> simp [bool01, hp]

theorem carryFlag_toNat (a b : Byte) : (carryFlag a b).toNat = if a.toNat + b.toNat > 255 then 1 else 0 :=
  bool01_decide_toNat _

theorem noBorrowFlag_toNat (a b : Byte) : (noBorrowFlag a b).toNat = if a.toNat ≥ b.toNat then 1 else 0 :=
  bool01_decide_toNat _

/-- The bit that `SHR` shifts out is the remainder of the halving. -/
theorem shrFlag_toNat (b : Byte) : (shrFlag b).toNat = b.toNat % 2 := by
  have bit0 : (1 : Byte).toNat = 1 := rfl
  rw [shrFlag, BitVec.toNat_and, bit0, Nat.and_one_is_mod]

/-! ### The obligations -/

/-- Settles O32: each is one write to `V[x]` and `Advance`. -/
theorem loadsAndAddImmediate : Obligations.LoadsAndAddImmediate := by
  intro s x y kk
  refine ⟨?ldKk, ?addKk, ?ldVy⟩
  case ldKk => exact setsRegister_of_exec rfl rfl
  case addKk => exact setsRegister_of_exec rfl (BitVec.toNat_add (s.getV x) kk)
  case ldVy => exact setsRegister_of_exec rfl rfl

/-- Settles O34: each is the two writes of R138, of a result and a flag that have these values, and `Advance`. -/
theorem arithmeticSetsResultAndFlag : Obligations.ArithmeticSetsResultAndFlag := by
  intro s x y hx
  refine ⟨?addVy, ?subVy, ?shrVy, ?subnVy⟩
  case addVy => exact setsResultAndFlag_of_exec rfl hx (natCast_toNat_add _ _) (carryFlag_toNat _ _)
  case subVy => exact setsResultAndFlag_of_exec rfl hx (natCast_toNat_sub _ _) (noBorrowFlag_toNat _ _)
  case shrVy => exact setsResultAndFlag_of_exec rfl hx (natCast_toNat_shiftRight_one _) (shrFlag_toNat _)
  case subnVy => exact setsResultAndFlag_of_exec rfl hx (natCast_toNat_sub _ _) (noBorrowFlag_toNat _ _)

end Sys2Proof.Machine
end

section
/-! PROOF. The index register (spec/43_index_memory.md): what a write to `I` leaves unchanged, and `LD I, nnn`. -/

namespace Sys2Proof.Machine

theorem frameExcept_setI (s : State) (w : Word) : FrameExcept [.i] s (s.setI w) := by
  intro f hf
  cases f with
  | i => exact absurd List.mem_cons_self hf
  | v | mem => exact fun _ => rfl
  | _ => rfl

theorem exec_ldI (s : State) (nnn : Addr12) :
    exec (.ldI nnn) s = .next ((s.setI (addrOf nnn)).setPc (s.pc + 2)) := rfl

/-- Settles O38: one write to `I` of the zero-extended address, and `Advance`. -/
theorem loadIndexSetsTheAddress : Obligations.LoadIndexSetsTheAddress := by
  intro s nnn
  exact ⟨_, exec_ldI s nnn, addrOf_toNat nnn, rfl, (frameExcept_setI s _).trans (frameExcept_setPc _ _)⟩

end Sys2Proof.Machine
end

section
/-! PROOF. The display (spec/44_display.md): what a write to the framebuffer or to `DRAW` leaves unchanged, and `CLS`. -/

namespace Sys2Proof.Machine

theorem frameExcept_setFb (s : State) (f : Framebuffer) : FrameExcept [.fb] s (s.setFb f) := by
  intro g hg
  cases g with
  | fb => exact absurd List.mem_cons_self hg
  | v | mem => exact fun _ => rfl
  | _ => rfl

theorem frameExcept_setDraw (s : State) (b : Bool) : FrameExcept [.draw] s (s.setDraw b) := by
  intro f hf
  cases f with
  | draw => exact absurd List.mem_cons_self hf
  | v | mem => exact fun _ => rfl
  | _ => rfl

theorem exec_cls (s : State) :
    exec .cls s = .next (((s.setFb Framebuffer.clear).setDraw true).setPc (s.pc + 2)) := rfl

/-- Settles O45: the cleared framebuffer, `DRAW` and `Advance` are its only writes. -/
theorem clearScreenClearsEveryCell : Obligations.ClearScreenClearsEveryCell := by
  intro s
  refine ⟨_, exec_cls s, ?cells, rfl, rfl, ?frame⟩
  case cells => exact fun c _ => Framebuffer.cell_clear c
  case frame =>
    exact ((frameExcept_setFb s _).trans (frameExcept_setDraw _ true)).trans (frameExcept_setPc _ _)

end Sys2Proof.Machine
end

section
/-! PROOF. The timers (spec/45_input_timers.md): what a write to `DT` or to `ST` leaves unchanged, when `SOUND_ACTIVE` is
on, and the three transfers between a register and a timer. -/

namespace Sys2Proof.Machine

theorem frameExcept_setDt (s : State) (b : Byte) : FrameExcept [.dt] s (s.setDt b) := by
  intro f hf
  cases f with
  | dt => exact absurd List.mem_cons_self hf
  | v | mem => exact fun _ => rfl
  | _ => rfl

theorem frameExcept_setSt (s : State) (b : Byte) : FrameExcept [.st] s (s.setSt b) := by
  intro f hf
  cases f with
  | st => exact absurd List.mem_cons_self hf
  | v | mem => exact fun _ => rfl
  | _ => rfl

/-- `SOUND_ACTIVE` follows the sound timer (R32). -/
theorem soundActive_iff (s : State) : s.soundActive = true ↔ s.st.toNat > 0 := decide_eq_true_iff

theorem exec_ldVxDt (s : State) (x : RegIdx) : exec (.ldVxDt x) s = complete .advance (s.setV x s.dt) := rfl

theorem exec_ldDtVx (s : State) (x : RegIdx) :
    exec (.ldDtVx x) s = .next ((s.setDt (s.getV x)).setPc (s.pc + 2)) := rfl

theorem exec_ldStVx (s : State) (x : RegIdx) :
    exec (.ldStVx x) s = .next ((s.setSt (s.getV x)).setPc (s.pc + 2)) := rfl

/-- Settles O51: each transfer is one write and `Advance`, and `SOUND_ACTIVE` is read off the timer just written. -/
theorem timerTransfers : Obligations.TimerTransfers := by
  intro s x
  refine ⟨?fromDt, ?toDt, ?toSt⟩
  case fromDt => exact setsRegister_of_exec (exec_ldVxDt s x) rfl
  case toDt => exact ⟨_, exec_ldDtVx s x, rfl, rfl, (frameExcept_setDt s _).trans (frameExcept_setPc _ _)⟩
  case toSt =>
    exact ⟨_, exec_ldStVx s x, rfl, soundActive_iff _, rfl, (frameExcept_setSt s _).trans (frameExcept_setPc _ _)⟩

end Sys2Proof.Machine
end

section
/-! PROOF. The host's transactions (spec/10_state.md R41): when the guard of a faulted core lets a host input through, and
the timer tick (spec/60_exceptions.md R240). -/

namespace Sys2Proof.Machine

theorem unlessFaulted_of_fault_none {s : State} (answer : State × Reply) (h : s.fault = none) :
    unlessFaulted s answer = answer :=
  if_neg (Option.not_isSome_iff_eq_none.2 h)

theorem unlessFaulted_of_fault {s : State} (answer : State × Reply) (h : s.fault ≠ none) :
    unlessFaulted s answer = (s, .done) :=
  if_pos (Option.isSome_iff_ne_none.2 h)

/-- One tick is the subtraction of natural numbers, which stops at 0 as R240 says. -/
theorem tickDown_toNat (b : Byte) : (tickDown b).toNat = b.toNat - 1 := by
  unfold tickDown
  split
  case isTrue atZero => rw [atZero]; rfl
  case isFalse running =>
    have atLeastOne : 1 ≤ b.toNat := Nat.one_le_iff_ne_zero.2 (BitVec.toNat_ne.1 running)
    exact BitVec.toNat_sub_of_le atLeastOne

theorem frameExcept_tickTimers (s : State) : FrameExcept [.dt, .st] s (tickTimers s) :=
  (frameExcept_setDt s _).trans (frameExcept_setSt _ _)

/-- Settles O53: past the guard the tick is two writes, one to each timer, and neither asks whether the core waits. -/
theorem tickCountsTheTimersDown : Obligations.TickCountsTheTimersDown := by
  intro s
  refine ⟨fun running => ?ticks, fun faulted => ?ignored⟩
  case ticks =>
    have ticked : transact .tickTimers s = (tickTimers s, .done) := unlessFaulted_of_fault_none _ running
    rw [ticked]
    exact ⟨tickDown_toNat s.dt, tickDown_toNat s.st, frameExcept_tickTimers s⟩
  case ignored => exact congrArg Prod.fst (unlessFaulted_of_fault _ faulted)

end Sys2Proof.Machine
end

section
/-! PROOF. The steps that answer `Waiting` (spec/70_reset_and_hazards.md R267): how a waiting step and a step that fetches run
through the cycle, what the key wait does while no key-down is latched, and that no other step ends with `WAIT` set. -/

namespace Sys2Proof.Machine

theorem statusOf_eq_waiting_iff (t : State) : statusOf t = .waiting ↔ t.fault = none ∧ t.wait ≠ none := by
  unfold statusOf
  split
  case h_1 r faulted => simp [faulted]
  case h_2 running => cases t.wait <;> simp [running]

/-! ### The two ways through the cycle -/

theorem step_of_wait {s : State} {x : RegIdx} (running : s.fault = none) (waits : s.wait = some x) :
    step s = endStep (waitCheck x (s.setDraw false)) := by
  simp [step, cycle, runStep, running, waits]

theorem step_of_executes {s : State} {i : Instr} (runs : Executes s i) :
    ∃ op, step s = endStep (exec i ((s.setDraw false).setIr op)) := by
  obtain ⟨running, awake, op, fetched, decoded⟩ := runs
  have fetchedToo : (s.setDraw false).fetch = some op := fetched
  exact ⟨op, by simp [step, cycle, runStep, fetchAndExec, decodeAndExec, running, awake, fetchedToo, decoded]⟩

/-- The end of a step clears at most `KEYLATCH`. -/
theorem endStep_keeps_fault_and_wait {u t : State} (ended : endStep (.next u) = .next t) :
    t.fault = u.fault ∧ t.wait = u.wait := by
  obtain rfl := Host.Outcome.next.inj ended
  split
  case isTrue raised => exact ⟨rfl, rfl⟩
  case isFalse completed => exact ⟨rfl, rfl⟩

theorem endStep_of_waiting {u : State} {x : RegIdx} (running : u.fault = none) (waits : u.wait = some x) :
    ∃ t, endStep (.next u) = .next t ∧ t.fault = none ∧ t.wait ≠ none := by
  obtain ⟨sameFault, sameWait⟩ := endStep_keeps_fault_and_wait (u := u) rfl
  exact ⟨_, rfl, sameFault.trans running, Option.ne_none_iff_exists'.2 ⟨x, sameWait.trans waits⟩⟩

/-! ### The key wait -/

theorem waitCheck_answers_next (x : RegIdx) (s : State) : ∃ t, waitCheck x s = .next t := by
  unfold waitCheck
  split
  case h_1 k latched => exact ⟨_, rfl⟩
  case h_2 unlatched => exact ⟨_, rfl⟩

theorem waitCheck_of_unlatched {s : State} (x : RegIdx) (unlatched : s.keyLatch = none) : waitCheck x s = .next s := by
  simp [waitCheck, unlatched, complete]

theorem exec_ldVxK_of_unlatched {s : State} (x : RegIdx) (unlatched : s.keyLatch = none) :
    exec (.ldVxK x) s = .next (s.setWait (some x)) := by
  simp [exec, execLdVxK, unlatched, complete]

/-- A waiting core answers a next state, so the `Waiting` of a `step` transaction is always read off one. -/
theorem transact_step_waiting_iff (s : State) :
    (transact .step s).2 = .status .waiting ↔ ∃ t, step s = .next t ∧ t.fault = none ∧ t.wait ≠ none := by
  have reply : (transact .step s).2 = (stepTransaction s).2 := rfl
  rw [reply]
  unfold stepTransaction
  cases ended : step s with
  | next t => simp [statusOf_eq_waiting_iff]
  | fault _ | refused _ =>
    suffices ¬(s.fault = none ∧ s.wait ≠ none) by simpa [statusOf_eq_waiting_iff]
    rintro ⟨running, waits⟩
    obtain ⟨x, waits⟩ := Option.ne_none_iff_exists'.1 waits
    obtain ⟨t, checked⟩ := waitCheck_answers_next x (s.setDraw false)
    rw [step_of_wait running waits, checked] at ended
    cases ended

/-- The only instruction that enters AwaitingKey is a `LD Vx, K` that finds no latched key-down. -/
theorem ldVxK_of_exec_enters_wait {i : Instr} {s u : State} (ran : exec i s = .next u) (awake : s.wait = none)
    (running : u.fault = none) (waits : u.wait ≠ none) : s.keyLatch = none ∧ ∃ x, i = .ldVxK x := by
  obtain ⟨kind, addr, rfl, -⟩ | completed := exec_cases ran
  · cases running
  · obtain kept | ⟨x, isLdVxK, unlatched, -, -⟩ := completed.wait
    · exact absurd (kept.trans awake) waits
    · exact ⟨unlatched, x, isLdVxK⟩

theorem unlatched_of_step_waits {s t : State} (stepped : step s = .next t) (running : t.fault = none)
    (waits : t.wait ≠ none) :
    s.keyLatch = none ∧ ((∃ x, s.wait = some x) ∨ ∃ x, Executes s (.ldVxK x)) := by
  obtain ⟨wasRunning, ⟨x, k, -, -, rfl⟩ | ⟨x, waited, unlatched, -⟩ | ⟨-, -, rfl⟩ | ⟨op, e, -, -, -, rfl⟩ |
    ⟨op, i, u, awake, fetched, decoded, ran, rfl⟩⟩ := step_cases stepped
  case inl => exact absurd rfl waits
  case inr.inl => exact ⟨unlatched, .inl ⟨x, waited⟩⟩
  case inr.inr.inl => cases running
  case inr.inr.inr.inl => cases running
  case inr.inr.inr.inr =>
    obtain ⟨sameFault, sameWait⟩ := endStep_keeps_fault_and_wait (u := u) rfl
    obtain ⟨unlatched, x, rfl⟩ := ldVxK_of_exec_enters_wait ran awake (sameFault ▸ running) (sameWait ▸ waits)
    exact ⟨unlatched, .inr ⟨x, wasRunning, awake, op, fetched, decoded⟩⟩

/-- Settles O21: a step leaves `WAIT` set only by waiting on or by a `LD Vx, K` without a latched key-down, and these two do. -/
theorem onlyTheKeyWaitTakesMoreSteps : Obligations.OnlyTheKeyWaitTakesMoreSteps := by
  intro s
  rw [transact_step_waiting_iff]
  constructor
  case mp =>
    rintro ⟨t, stepped, running, waits⟩
    exact ⟨(step_cases stepped).1, unlatched_of_step_waits stepped running waits⟩
  case mpr =>
    rintro ⟨running, unlatched, ⟨x, waits⟩ | ⟨x, runs⟩⟩
    case inl =>
      have checked : waitCheck x (s.setDraw false) = .next (s.setDraw false) := waitCheck_of_unlatched x unlatched
      rw [step_of_wait running waits, checked]
      exact endStep_of_waiting running waits
    case inr =>
      obtain ⟨op, stepped⟩ := step_of_executes runs
      have entered : exec (.ldVxK x) ((s.setDraw false).setIr op) = .next (((s.setDraw false).setIr op).setWait (some x)) :=
        exec_ldVxK_of_unlatched x unlatched
      rw [stepped, entered]
      exact endStep_of_waiting running rfl

end Sys2Proof.Machine
end

section
/-! PROOF. The decoder and the encoder (spec/30_encoding.md R70 to R80): the decoder one major opcode at a time, the two
round trips, the rows an opcode matches, and the illegal encodings as numbers. -/

namespace Sys2Proof

/-! ### The decoder, one major opcode at a time (R77) -/

theorem nibble_cases (a : Nibble) : a = 0x0#4 ∨ a = 0x1#4 ∨ a = 0x2#4 ∨ a = 0x3#4 ∨ a = 0x4#4 ∨ a = 0x5#4 ∨ a = 0x6#4 ∨
    a = 0x7#4 ∨ a = 0x8#4 ∨ a = 0x9#4 ∨ a = 0xA#4 ∨ a = 0xB#4 ∨ a = 0xC#4 ∨ a = 0xD#4 ∨ a = 0xE#4 ∨ a = 0xF#4 := by
  revert a
  decide

theorem ne_of_nA_ne_zero {op w : Word} (hw : nA w = 0) (hop : nA op ≠ 0) : op ≠ w := fun same => hop (same ▸ hw)

section

variable {policy : SysPolicy} {op : Word}

/-- The words `00E0` and `00EE` come first, and both have the major opcode 0. -/
theorem not_cls_ret_of_nA {a : Nibble} (h : nA op = a) (ha : a ≠ 0) : op ≠ 0x00E0#16 ∧ op ≠ 0x00EE#16 := by
  rw [← h] at ha
  exact ⟨ne_of_nA_ne_zero rfl ha, ne_of_nA_ne_zero rfl ha⟩

theorem decode_of_nA_0 (h : nA op = 0x0#4) :
    decode policy op = if op = 0x00E0#16 then .ok .cls else if op = 0x00EE#16 then .ok .ret else decodeSys policy op := by
  simp [decode, h]

theorem decode_of_nA_1 (h : nA op = 0x1#4) : decode policy op = .ok (.jp (fieldNnn op)) := by
  simp [decode, h, not_cls_ret_of_nA h]

theorem decode_of_nA_2 (h : nA op = 0x2#4) : decode policy op = .ok (.call (fieldNnn op)) := by
  simp [decode, h, not_cls_ret_of_nA h]

theorem decode_of_nA_3 (h : nA op = 0x3#4) : decode policy op = .ok (.seKk (fieldX op) (fieldKk op)) := by
  simp [decode, h, not_cls_ret_of_nA h]

theorem decode_of_nA_4 (h : nA op = 0x4#4) : decode policy op = .ok (.sneKk (fieldX op) (fieldKk op)) := by
  simp [decode, h, not_cls_ret_of_nA h]

theorem decode_of_nA_5 (h : nA op = 0x5#4) :
    decode policy op = if nD op = 0 then .ok (.seVy (fieldX op) (fieldY op)) else .error (.unknownOpcode op) := by
  simp [decode, h, not_cls_ret_of_nA h]

theorem decode_of_nA_6 (h : nA op = 0x6#4) : decode policy op = .ok (.ldKk (fieldX op) (fieldKk op)) := by
  simp [decode, h, not_cls_ret_of_nA h]

theorem decode_of_nA_7 (h : nA op = 0x7#4) : decode policy op = .ok (.addKk (fieldX op) (fieldKk op)) := by
  simp [decode, h, not_cls_ret_of_nA h]

theorem decode_of_nA_8 (h : nA op = 0x8#4) : decode policy op = decodeRegOp op := by
  simp [decode, h, not_cls_ret_of_nA h]

theorem decode_of_nA_9 (h : nA op = 0x9#4) :
    decode policy op = if nD op = 0 then .ok (.sneVy (fieldX op) (fieldY op)) else .error (.unknownOpcode op) := by
  simp [decode, h, not_cls_ret_of_nA h]

theorem decode_of_nA_A (h : nA op = 0xA#4) : decode policy op = .ok (.ldI (fieldNnn op)) := by
  simp [decode, h, not_cls_ret_of_nA h]

theorem decode_of_nA_B (h : nA op = 0xB#4) : decode policy op = .ok (.jpV0 (fieldNnn op)) := by
  simp [decode, h, not_cls_ret_of_nA h]

theorem decode_of_nA_C (h : nA op = 0xC#4) : decode policy op = .ok (.rnd (fieldX op) (fieldKk op)) := by
  simp [decode, h, not_cls_ret_of_nA h]

theorem decode_of_nA_D (h : nA op = 0xD#4) : decode policy op = .ok (.drw (fieldX op) (fieldY op) (fieldN op)) := by
  simp [decode, h, not_cls_ret_of_nA h]

theorem decode_of_nA_E (h : nA op = 0xE#4) : decode policy op = decodeKeyOp op := by
  simp [decode, h, not_cls_ret_of_nA h]

theorem decode_of_nA_F (h : nA op = 0xF#4) : decode policy op = decodeMiscOp op := by
  simp [decode, h, not_cls_ret_of_nA h]

end

/-! ### Decoding an encoded instruction -/

theorem encodeA_injective (a : Nibble) : Function.Injective (encodeA a) :=
  Function.LeftInverse.injective (fieldNnn_encodeA a)

theorem sys_wellFormed_iff (nnn : Addr12) : (Instr.sys nnn).wellFormed = true ↔ nnn ≠ 0x0E0 ∧ nnn ≠ 0x0EE := by
  simp [Instr.wellFormed]

theorem decode_encode_sys {nnn : Addr12} (legal : (Instr.sys nnn).wellFormed = true) :
    decode .nop (encode (.sys nnn)) = .ok (.sys nnn) := by
  obtain ⟨notCls, notRet⟩ := (sys_wellFormed_iff nnn).1 legal
  have major : nA (encode (.sys nnn)) = 0x0#4 := nA_encodeA _ _
  have notE0 : encode (.sys nnn) ≠ 0x00E0#16 := (encodeA_injective 0).ne notCls
  have notEE : encode (.sys nnn) ≠ 0x00EE#16 := (encodeA_injective 0).ne notRet
  rw [decode_of_nA_0 major, if_neg notE0, if_neg notEE, decodeSys, encode, fieldNnn_encodeA]

theorem decode_encode_of_ne_sys (policy : SysPolicy) {i : Instr} (notSys : ∀ nnn, i ≠ .sys nnn) :
    decode policy (encode i) = .ok i := by
  cases i with
  | sys nnn => exact absurd rfl (notSys nnn)
  | cls | ret => rfl
  | jp => simp [encode, decode_of_nA_1]
  | call => simp [encode, decode_of_nA_2]
  | seKk => simp [encode, decode_of_nA_3]
  | sneKk => simp [encode, decode_of_nA_4]
  | seVy => simp [encode, decode_of_nA_5]
  | ldKk => simp [encode, decode_of_nA_6]
  | addKk => simp [encode, decode_of_nA_7]
  | ldVy | orVy | andVy | xorVy | addVy | subVy | shrVy | subnVy | shlVy => simp [encode, decode_of_nA_8, decodeRegOp]
  | sneVy => simp [encode, decode_of_nA_9]
  | ldI => simp [encode, decode_of_nA_A]
  | jpV0 => simp [encode, decode_of_nA_B]
  | rnd => simp [encode, decode_of_nA_C]
  | drw => simp [encode, decode_of_nA_D]
  | skp | sknp => simp [encode, decode_of_nA_E, decodeKeyOp]
  | ldVxDt | ldVxK | ldDtVx | ldStVx | addIVx | ldFVx | ldBVx | ldMemVx | ldVxMem =>
    simp [encode, decode_of_nA_F, decodeMiscOp]

theorem decode_encode {i : Instr} (legal : i.wellFormed = true) : decode .nop (encode i) = .ok i := by
  by_cases isSys : ∃ nnn, i = .sys nnn
  case pos =>
    obtain ⟨nnn, rfl⟩ := isSys
    exact decode_encode_sys legal
  case neg => exact decode_encode_of_ne_sys .nop (not_exists.1 isSys)

/-- Settles O6: every format's fields are read back from it, and a legal `SYS` is neither `00E0` nor `00EE`. -/
theorem decodeOfEncodeIsTheInstruction : Obligations.DecodeOfEncodeIsTheInstruction :=
  ⟨fun _ legal => decode_encode legal, fun policy _ notSys => decode_encode_of_ne_sys policy notSys⟩

/-! ### Encoding a decoded instruction -/

section

variable {op : Word} {a : Nibble} (major : nA op = a)
include major

theorem encodeA_of_nA : encodeA a (fieldNnn op) = op := major ▸ encodeA_fields op

theorem encodeXK_of_nA : encodeXK a (fieldX op) (fieldKk op) = op := major ▸ encodeXK_fields op

theorem encodeXK_of_nA_kk {kk : Byte} (low : fieldKk op = kk) : encodeXK a (fieldX op) kk = op :=
  low ▸ encodeXK_of_nA major

theorem encodeXYN_of_nA_nD {n : Nibble} (low : nD op = n) : encodeXYN a (fieldX op) (fieldY op) n = op := by
  rw [← major, ← low, encodeXYN_fields]

end

theorem encode_of_ok {op : Word} {i j : Instr} (h : (Except.ok j : Except Reject Instr) = .ok i)
    (back : encode j = op) (legal : j.wellFormed = true) : encode i = op ∧ i.wellFormed = true := by
  obtain rfl := Except.ok.inj h
  exact ⟨back, legal⟩

theorem encode_of_decodeRegOp {op : Word} {i : Instr} (major : nA op = 0x8#4) (h : decodeRegOp op = .ok i) :
    encode i = op ∧ i.wellFormed = true := by
  unfold decodeRegOp at h
  split at h
  case h_10 => cases h
  all_goals next low => exact encode_of_ok h (encodeXYN_of_nA_nD major low) rfl

theorem encode_of_decodeKeyOp {op : Word} {i : Instr} (major : nA op = 0xE#4) (h : decodeKeyOp op = .ok i) :
    encode i = op ∧ i.wellFormed = true := by
  unfold decodeKeyOp at h
  split at h
  case h_3 => cases h
  all_goals next low => exact encode_of_ok h (encodeXK_of_nA_kk major low) rfl

theorem encode_of_decodeMiscOp {op : Word} {i : Instr} (major : nA op = 0xF#4) (h : decodeMiscOp op = .ok i) :
    encode i = op ∧ i.wellFormed = true := by
  unfold decodeMiscOp at h
  split at h
  case h_10 => cases h
  all_goals next low => exact encode_of_ok h (encodeXK_of_nA_kk major low) rfl

theorem encode_of_decode_nA_0 {policy : SysPolicy} {op : Word} {i : Instr} (major : nA op = 0x0#4)
    (h : decode policy op = .ok i) : encode i = op ∧ i.wellFormed = true := by
  rw [decode_of_nA_0 major] at h
  split at h
  case isTrue isCls => exact encode_of_ok h isCls.symm rfl
  case isFalse notCls =>
    split at h
    case isTrue isRet => exact encode_of_ok h isRet.symm rfl
    case isFalse notRet =>
      cases policy with
      | fault => cases h
      | nop =>
        have back : encode (.sys (fieldNnn op)) = op := encodeA_of_nA major
        refine encode_of_ok h back ((sys_wellFormed_iff _).2 ⟨fun isE0 => ?_, fun isEE => ?_⟩)
        · exact notCls (back.symm.trans (congrArg (encode ∘ Instr.sys) isE0))
        · exact notRet (back.symm.trans (congrArg (encode ∘ Instr.sys) isEE))

theorem encode_of_decode {policy : SysPolicy} {op : Word} {i : Instr} (h : decode policy op = .ok i) :
    encode i = op ∧ i.wellFormed = true := by
  obtain m | m | m | m | m | m | m | m | m | m | m | m | m | m | m | m := nibble_cases (nA op)
  · exact encode_of_decode_nA_0 m h
  · exact encode_of_ok ((decode_of_nA_1 m).symm.trans h) (encodeA_of_nA m) rfl
  · exact encode_of_ok ((decode_of_nA_2 m).symm.trans h) (encodeA_of_nA m) rfl
  · exact encode_of_ok ((decode_of_nA_3 m).symm.trans h) (encodeXK_of_nA m) rfl
  · exact encode_of_ok ((decode_of_nA_4 m).symm.trans h) (encodeXK_of_nA m) rfl
  · rw [decode_of_nA_5 m] at h
    split at h
    case isTrue low => exact encode_of_ok h (encodeXYN_of_nA_nD m low) rfl
    case isFalse => cases h
  · exact encode_of_ok ((decode_of_nA_6 m).symm.trans h) (encodeXK_of_nA m) rfl
  · exact encode_of_ok ((decode_of_nA_7 m).symm.trans h) (encodeXK_of_nA m) rfl
  · exact encode_of_decodeRegOp m (decode_of_nA_8 m ▸ h)
  · rw [decode_of_nA_9 m] at h
    split at h
    case isTrue low => exact encode_of_ok h (encodeXYN_of_nA_nD m low) rfl
    case isFalse => cases h
  · exact encode_of_ok ((decode_of_nA_A m).symm.trans h) (encodeA_of_nA m) rfl
  · exact encode_of_ok ((decode_of_nA_B m).symm.trans h) (encodeA_of_nA m) rfl
  · exact encode_of_ok ((decode_of_nA_C m).symm.trans h) (encodeXK_of_nA m) rfl
  · exact encode_of_ok ((decode_of_nA_D m).symm.trans h) (encodeXYN_of_nA_nD m rfl) rfl
  · exact encode_of_decodeKeyOp m (decode_of_nA_E m ▸ h)
  · exact encode_of_decodeMiscOp m (decode_of_nA_F m ▸ h)

/-- Settles O7: each major opcode's fields, put together in its format, are the opcode they were read from. -/
theorem encodeOfDecodeIsTheOpcode : Obligations.EncodeOfDecodeIsTheOpcode :=
  fun _ _ _ decoded => encode_of_decode decoded

/-! ### The rows that an opcode matches (R74, R77) -/

theorem row_matches_encode (i : Instr) : i.row.Matches (encode i) := by
  cases i with
  | cls | ret => rfl
  | sys | jp | call | ldI | jpV0 => exact Laws.mask_encodeA _ _
  | seKk | sneKk | ldKk | addKk | rnd | drw => exact Laws.mask_encodeXK _ _ _
  | seVy | ldVy | orVy | andVy | xorVy | addVy | subVy | shrVy | subnVy | shlVy | sneVy => exact Laws.mask_encodeXY _ _ _ _
  | skp | sknp | ldVxDt | ldVxK | ldDtVx | ldStVx | addIVx | ldFVx | ldBVx | ldMemVx | ldVxMem =>
    exact Laws.mask_encodeX _ _ _

/-- Only the row of `SYS` has no fixed bit that is 1. -/
theorem row_pattern_eq_zero_iff (i : Instr) : i.row.pattern = 0 ↔ ∃ nnn, i = .sys nnn := by
  cases i <;> simp [Instr.row]

section

variable {op mask pattern : Word} (same : op &&& mask = pattern)
include same

theorem nA_of_and_eq (fixed : nA mask = BitVec.allOnes 4) : nA op = nA pattern := by
  unfold nA at *
  rw [← same, BitVec.extractLsb'_and, fixed, BitVec.and_allOnes]

theorem nD_of_and_eq (fixed : nD mask = BitVec.allOnes 4) : nD op = nD pattern := by
  unfold nD at *
  rw [← same, BitVec.extractLsb'_and, fixed, BitVec.and_allOnes]

theorem fieldKk_of_and_eq (fixed : fieldKk mask = BitVec.allOnes 8) : fieldKk op = fieldKk pattern := by
  unfold fieldKk at *
  rw [← same, BitVec.extractLsb'_and, fixed, BitVec.and_allOnes]

end

/-- An opcode with the fixed bits of a format A row is that row's, with the address read from it. -/
theorem encodeA_of_matches {op pattern : Word} {a : Nibble} (same : op &&& 0xF000 = pattern) (major : nA pattern = a) :
    encodeA a (fieldNnn op) = op :=
  encodeA_of_nA ((nA_of_and_eq same rfl).trans major)

theorem encodeXK_of_matches {op pattern : Word} {a : Nibble} (same : op &&& 0xF000 = pattern) (major : nA pattern = a) :
    encodeXK a (fieldX op) (fieldKk op) = op :=
  encodeXK_of_nA ((nA_of_and_eq same rfl).trans major)

theorem encodeX_of_matches {op pattern : Word} {a : Nibble} {kk : Byte} (same : op &&& 0xF0FF = pattern)
    (major : nA pattern = a) (low : fieldKk pattern = kk) : encodeXK a (fieldX op) kk = op :=
  encodeXK_of_nA_kk ((nA_of_and_eq same rfl).trans major) ((fieldKk_of_and_eq same rfl).trans low)

theorem encodeXY_of_matches {op pattern : Word} {a n : Nibble} (same : op &&& 0xF00F = pattern)
    (major : nA pattern = a) (low : nD pattern = n) : encodeXYN a (fieldX op) (fieldY op) n = op :=
  encodeXYN_of_nA_nD ((nA_of_and_eq same rfl).trans major) ((nD_of_and_eq same rfl).trans low)

theorem eq_of_and_allOnes {op pattern : Word} (same : op &&& 0xFFFF = pattern) : pattern = op :=
  same.symm.trans BitVec.and_allOnes

/-- An opcode that matches a row is the encoding of an instruction of that row. -/
theorem exists_encode_of_matches {i : Instr} {op : Word} (h : i.row.Matches op) : ∃ j, j.row = i.row ∧ encode j = op := by
  cases i
  all_goals simp only [Instr.row, Row.Matches] at h
  case cls => exact ⟨.cls, rfl, eq_of_and_allOnes h⟩
  case ret => exact ⟨.ret, rfl, eq_of_and_allOnes h⟩
  case sys => exact ⟨.sys (fieldNnn op), rfl, encodeA_of_matches h rfl⟩
  case jp => exact ⟨.jp (fieldNnn op), rfl, encodeA_of_matches h rfl⟩
  case call => exact ⟨.call (fieldNnn op), rfl, encodeA_of_matches h rfl⟩
  case ldI => exact ⟨.ldI (fieldNnn op), rfl, encodeA_of_matches h rfl⟩
  case jpV0 => exact ⟨.jpV0 (fieldNnn op), rfl, encodeA_of_matches h rfl⟩
  case seKk => exact ⟨.seKk (fieldX op) (fieldKk op), rfl, encodeXK_of_matches h rfl⟩
  case sneKk => exact ⟨.sneKk (fieldX op) (fieldKk op), rfl, encodeXK_of_matches h rfl⟩
  case ldKk => exact ⟨.ldKk (fieldX op) (fieldKk op), rfl, encodeXK_of_matches h rfl⟩
  case addKk => exact ⟨.addKk (fieldX op) (fieldKk op), rfl, encodeXK_of_matches h rfl⟩
  case rnd => exact ⟨.rnd (fieldX op) (fieldKk op), rfl, encodeXK_of_matches h rfl⟩
  case seVy => exact ⟨.seVy (fieldX op) (fieldY op), rfl, encodeXY_of_matches h rfl rfl⟩
  case ldVy => exact ⟨.ldVy (fieldX op) (fieldY op), rfl, encodeXY_of_matches h rfl rfl⟩
  case orVy => exact ⟨.orVy (fieldX op) (fieldY op), rfl, encodeXY_of_matches h rfl rfl⟩
  case andVy => exact ⟨.andVy (fieldX op) (fieldY op), rfl, encodeXY_of_matches h rfl rfl⟩
  case xorVy => exact ⟨.xorVy (fieldX op) (fieldY op), rfl, encodeXY_of_matches h rfl rfl⟩
  case addVy => exact ⟨.addVy (fieldX op) (fieldY op), rfl, encodeXY_of_matches h rfl rfl⟩
  case subVy => exact ⟨.subVy (fieldX op) (fieldY op), rfl, encodeXY_of_matches h rfl rfl⟩
  case shrVy => exact ⟨.shrVy (fieldX op) (fieldY op), rfl, encodeXY_of_matches h rfl rfl⟩
  case subnVy => exact ⟨.subnVy (fieldX op) (fieldY op), rfl, encodeXY_of_matches h rfl rfl⟩
  case shlVy => exact ⟨.shlVy (fieldX op) (fieldY op), rfl, encodeXY_of_matches h rfl rfl⟩
  case sneVy => exact ⟨.sneVy (fieldX op) (fieldY op), rfl, encodeXY_of_matches h rfl rfl⟩
  case skp => exact ⟨.skp (fieldX op), rfl, encodeX_of_matches h rfl rfl⟩
  case sknp => exact ⟨.sknp (fieldX op), rfl, encodeX_of_matches h rfl rfl⟩
  case ldVxDt => exact ⟨.ldVxDt (fieldX op), rfl, encodeX_of_matches h rfl rfl⟩
  case ldVxK => exact ⟨.ldVxK (fieldX op), rfl, encodeX_of_matches h rfl rfl⟩
  case ldDtVx => exact ⟨.ldDtVx (fieldX op), rfl, encodeX_of_matches h rfl rfl⟩
  case ldStVx => exact ⟨.ldStVx (fieldX op), rfl, encodeX_of_matches h rfl rfl⟩
  case addIVx => exact ⟨.addIVx (fieldX op), rfl, encodeX_of_matches h rfl rfl⟩
  case ldFVx => exact ⟨.ldFVx (fieldX op), rfl, encodeX_of_matches h rfl rfl⟩
  case ldBVx => exact ⟨.ldBVx (fieldX op), rfl, encodeX_of_matches h rfl rfl⟩
  case ldMemVx => exact ⟨.ldMemVx (fieldX op), rfl, encodeX_of_matches h rfl rfl⟩
  case ldVxMem => exact ⟨.ldVxMem (fieldX op), rfl, encodeX_of_matches h rfl rfl⟩
  case drw => exact ⟨.drw (fieldX op) (fieldY op) (fieldN op), rfl, encodeXYN_of_nA_nD (nA_of_and_eq h rfl) rfl⟩

/-- The rows in use under a policy: all, or all but that of `SYS` (R79). -/
def InUse (policy : SysPolicy) (j : Instr) : Prop := policy = .nop ∨ ∀ nnn, j ≠ .sys nnn

theorem decode_encode_of_inUse {policy : SysPolicy} {j : Instr} (inUse : InUse policy j) (legal : j.wellFormed = true) :
    decode policy (encode j) = .ok j := by
  obtain rfl | notSys := inUse
  · exact decode_encode legal
  · exact decode_encode_of_ne_sys policy notSys

/-- The illegal `SYS` words are those of `CLS` and `RET`. -/
theorem encode_of_not_wellFormed {j : Instr} (illegal : j.wellFormed ≠ true) :
    j.row.pattern = 0 ∧ (encode j = encode .cls ∨ encode j = encode .ret) := by
  cases j with
  | sys nnn =>
    refine ⟨rfl, ?_⟩
    obtain rfl | rfl : nnn = 0x0E0 ∨ nnn = 0x0EE := by
      rw [ne_eq, sys_wellFormed_iff] at illegal
      tauto
    · exact .inl rfl
    · exact .inr rfl
  | _ => exact absurd rfl illegal

/-- Under `SYS_POLICY = fault` no opcode is `SYS`. -/
theorem inUse_of_decode {policy : SysPolicy} {op : Word} {i : Instr} (h : decode policy op = .ok i) : InUse policy i := by
  cases policy with
  | nop => exact .inl rfl
  | fault =>
    refine .inr fun nnn isSys => ?_
    subst isSys
    have major : nA op = 0x0#4 := by
      rw [← (encode_of_decode h).1]
      exact nA_encodeA _ _
    rw [decode_of_nA_0 major] at h
    split at h
    · cases h
    · split at h <;> cases h

/-- An opcode decodes exactly when it matches a row in use (R77). -/
theorem decodes_iff_matches (policy : SysPolicy) (op : Word) :
    (∃ i, decode policy op = .ok i) ↔ ∃ j, InUse policy j ∧ j.row.Matches op := by
  constructor
  case mp =>
    rintro ⟨i, decoded⟩
    exact ⟨i, inUse_of_decode decoded, (encode_of_decode decoded).1 ▸ row_matches_encode i⟩
  case mpr =>
    rintro ⟨j, inUse, matching⟩
    obtain ⟨k, sameRow, rfl⟩ := exists_encode_of_matches matching
    by_cases legal : k.wellFormed = true
    case pos =>
      have kInUse : InUse policy k := inUse.imp_right fun notSys nnn isSys => by
        obtain ⟨nnn', same⟩ := (row_pattern_eq_zero_iff j).1 (sameRow ▸ (row_pattern_eq_zero_iff k).2 ⟨nnn, isSys⟩)
        exact notSys nnn' same
      exact ⟨k, decode_encode_of_inUse kInUse legal⟩
    case neg =>
      obtain ⟨-, same | same⟩ := encode_of_not_wellFormed legal
      · exact ⟨.cls, same ▸ rfl⟩
      · exact ⟨.ret, same ▸ rfl⟩

/-- Two rows that match one opcode are the same, unless the opcode is an illegal `SYS` word. -/
theorem row_eq_of_matches {i j : Instr} {op : Word} (hi : i.row.Matches op) (hj : j.row.Matches op) :
    i.row = j.row ∨ ((op = 0x00E0 ∨ op = 0x00EE) ∧ (i.row.pattern = 0 ∨ j.row.pattern = 0)) := by
  obtain ⟨a, rowA, encodeA⟩ := exists_encode_of_matches hi
  obtain ⟨b, rowB, encodeB⟩ := exists_encode_of_matches hj
  rw [← rowA, ← rowB]
  by_cases legalA : a.wellFormed = true
  case neg =>
    obtain ⟨isSys, word⟩ := encode_of_not_wellFormed legalA
    exact .inr ⟨encodeA ▸ word, .inl isSys⟩
  by_cases legalB : b.wellFormed = true
  case neg =>
    obtain ⟨isSys, word⟩ := encode_of_not_wellFormed legalB
    exact .inr ⟨encodeB ▸ word, .inr isSys⟩
  have same : (.ok a : Except Reject Instr) = .ok b := by
    rw [← decode_encode legalA, ← decode_encode legalB, encodeA, encodeB]
  exact .inl (congrArg Instr.row (Except.ok.inj same))

/-- Settles O8: an opcode that matches a row is the encoding of an instruction of that row, and a legal one decodes back. -/
theorem decodingMatchesTheRowsStrictly : Obligations.DecodingMatchesTheRowsStrictly := by
  refine ⟨fun op => ?decodes, fun op i decoded => ?ownRow, fun op i j hi hj => row_eq_of_matches hi hj⟩
  case decodes => simpa [InUse] using decodes_iff_matches .nop op
  case ownRow => exact (encode_of_decode decoded).1 ▸ row_matches_encode i

end Sys2Proof
end

section
/-! PROOF. The illegal encodings (spec/30_encoding.md R78): the fields of an opcode as numbers, and the decoder's errors one
major opcode at a time. -/

namespace Sys2Proof

open Machine (IllegalOpcode)

/-! ### The fields of an opcode as numbers -/

theorem nA_toNat (op : Word) : (nA op).toNat = op.toNat / 0x1000 := by
  have small : op.toNat / 2 ^ 12 < 2 ^ 4 := by omega
  simpa [nA, Nat.shiftRight_eq_div_pow] using small

theorem nD_toNat (op : Word) : (nD op).toNat = op.toNat % 16 := by
  rw [nD, BitVec.extractLsb'_toNat, Nat.shiftRight_zero]

theorem fieldKk_toNat (op : Word) : (fieldKk op).toNat = op.toNat % 256 := by
  rw [fieldKk, BitVec.extractLsb'_toNat, Nat.shiftRight_zero]

/-! ### Where the decoder rejects -/

section

variable {op : Word} {e : Reject}

theorem decodeRegOp_error (h : decodeRegOp op = .error e) : e = .unknownOpcode op := by
  unfold decodeRegOp at h
  split at h <;> cases h
  rfl

theorem decodeKeyOp_error (h : decodeKeyOp op = .error e) : e = .unknownOpcode op := by
  unfold decodeKeyOp at h
  split at h <;> cases h
  rfl

theorem decodeMiscOp_error (h : decodeMiscOp op = .error e) : e = .unknownOpcode op := by
  unfold decodeMiscOp at h
  split at h <;> cases h
  rfl

theorem decodeSys_error {policy : SysPolicy} (h : decodeSys policy op = .error e) : e = .unknownOpcode op := by
  unfold decodeSys at h
  split at h <;> cases h
  rfl

/-- The decoder of a whole opcode has one way to reject it. -/
theorem decode_error {policy : SysPolicy} (h : decode policy op = .error e) : e = .unknownOpcode op := by
  unfold decode at h
  split at h
  · cases h
  split at h
  · cases h
  split at h
  case h_1 => exact decodeSys_error h
  case h_6 | h_10 =>
    split at h <;> cases h
    rfl
  case h_9 => exact decodeRegOp_error h
  case h_15 => exact decodeKeyOp_error h
  case h_16 => exact decodeMiscOp_error h
  all_goals cases h

end

theorem decodeRegOp_error_iff (op : Word) : decodeRegOp op = .error (.unknownOpcode op) ↔
    (nD op).toNat ∈ [0x8, 0x9, 0xA, 0xB, 0xC, 0xD, 0xF] := by
  unfold decodeRegOp
  generalize nD op = n
  obtain h | h | h | h | h | h | h | h | h | h | h | h | h | h | h | h := nibble_cases n <;> simp [h]

theorem decodeKeyOp_error_iff (op : Word) : decodeKeyOp op = .error (.unknownOpcode op) ↔
    (fieldKk op).toNat ∉ [0x9E, 0xA1] := by
  unfold decodeKeyOp
  split <;> simp_all [← BitVec.toNat_inj]

theorem decodeMiscOp_error_iff (op : Word) : decodeMiscOp op = .error (.unknownOpcode op) ↔
    (fieldKk op).toNat ∉ [0x07, 0x0A, 0x15, 0x18, 0x1E, 0x29, 0x33, 0x55, 0x65] := by
  unfold decodeMiscOp
  split <;> simp_all [← BitVec.toNat_inj]

theorem decode_nA_0_error_iff {policy : SysPolicy} {op : Word} (major : nA op = 0x0#4) :
    decode policy op = .error (.unknownOpcode op) ↔ op.toNat ≠ 0x00E0 ∧ op.toNat ≠ 0x00EE ∧ policy = .fault := by
  have isE0 : op.toNat = 0x00E0 ↔ op = 0x00E0#16 := BitVec.toNat_inj (y := 0x00E0#16)
  have isEE : op.toNat = 0x00EE ↔ op = 0x00EE#16 := BitVec.toNat_inj (y := 0x00EE#16)
  rw [decode_of_nA_0 major, ne_eq, isE0, ne_eq, isEE]
  by_cases cls : op = 0x00E0#16
  case pos => simp [cls]
  by_cases ret : op = 0x00EE#16
  case pos => simp [ret]
  cases policy <;> simp [decodeSys, cls, ret]

theorem nD_eq_zero_iff (op : Word) : nD op = 0#4 ↔ (nD op).toNat = 0 := BitVec.toNat_inj.symm

theorem decode_error_iff (policy : SysPolicy) (op : Word) :
    decode policy op = .error (.unknownOpcode op) ↔ IllegalOpcode policy op.toNat := by
  have low : op.toNat < 0x1000 ↔ op.toNat / 0x1000 = 0 := by omega
  unfold IllegalOpcode
  rw [low, ← nA_toNat, ← nD_toNat, ← fieldKk_toNat]
  obtain m | m | m | m | m | m | m | m | m | m | m | m | m | m | m | m := nibble_cases (nA op)
  · simp [decode_nA_0_error_iff m, m]
  · simp [decode_of_nA_1 m, m]
  · simp [decode_of_nA_2 m, m]
  · simp [decode_of_nA_3 m, m]
  · simp [decode_of_nA_4 m, m]
  · simp [decode_of_nA_5 m, m, nD_eq_zero_iff]
  · simp [decode_of_nA_6 m, m]
  · simp [decode_of_nA_7 m, m]
  · simp [decode_of_nA_8 m, m, decodeRegOp_error_iff]
  · simp [decode_of_nA_9 m, m, nD_eq_zero_iff]
  · simp [decode_of_nA_A m, m]
  · simp [decode_of_nA_B m, m]
  · simp [decode_of_nA_C m, m]
  · simp [decode_of_nA_D m, m]
  · simp [decode_of_nA_E m, m, decodeKeyOp_error_iff]
  · simp [decode_of_nA_F m, m, decodeMiscOp_error_iff]

/-- Settles O9: the decoder rejects in the same places as the list, one major opcode after the other. -/
theorem illegalEncodingsAreExactlyThese : Obligations.IllegalEncodingsAreExactlyThese := decode_error_iff

end Sys2Proof
end

section
/-! PROOF. The invariant (spec/10_state.md R26 to R30 and R39, spec/60_exceptions.md R230): it holds at reset, and every
instruction, step and transaction keeps it. -/

namespace Sys2Proof.Machine

/-! ### Words that stay in their ranges -/

theorem addrOf_le (nnn : Addr12) : (addrOf nnn).toNat ≤ 0xFFF := by
  rw [addrOf_toNat]
  omega

theorem indexSum_le (w : Word) (b : Byte) : (indexSum w b).toNat ≤ 0xFFF := by
  rw [indexSum_toNat]
  omega

/-- The last glyph starts 5 bytes before the end of a legal font. -/
theorem glyphAddr_le {p : Params} (legal : p.Wf) (b : Byte) : (glyphAddr p b).toNat ≤ 0xFFF := by
  rw [glyphAddr_toNat p b legal]
  simp only [Params.Wf, memSize] at legal
  omega

theorem addrOf_add_zext16_toNat (nnn : Addr12) (b : Byte) : (addrOf nnn + zext16 b).toNat = nnn.toNat + b.toNat := by
  rw [BitVec.toNat_add, addrOf_toNat, zext16_toNat]
  omega

section

variable {pc : Word} (inMemory : pc.toNat + 1 ≤ 0xFFF)
include inMemory

theorem pc_add_two_toNat : (pc + 2).toNat = pc.toNat + 2 := by
  have two : (2 : Word).toNat = 2 := rfl
  rw [BitVec.toNat_add]
  omega

theorem pc_add_four_toNat : (pc + 4).toNat = pc.toNat + 4 := by
  have four : (4 : Word).toNat = 4 := rfl
  rw [BitVec.toNat_add]
  omega

end

theorem firstBadAddr_ge (w : Word) : 0x1000 ≤ (firstBadAddr w).toNat := by
  rw [firstBadAddr_toNat]
  exact le_max_right _ _

/-! ### A recorded error -/

/-- What an instruction records about its error is legal: its own opcode, and an address for a `MemoryFault` only. -/
theorem RaiseCause.legal {i : Instr} {s : State} {addr : Option Word} {kind : FaultKind} (cause : RaiseCause i s addr kind) :
    FaultRecord.Legal s ⟨kind, s.pc, some s.ir, addr⟩ := by
  cases kind with
  | unknownOpcode =>
    obtain ⟨-, -, rfl⟩ := cause
    simp [FaultRecord.Legal]
  | memoryFault =>
    obtain ⟨rfl, -⟩ := cause
    simp [FaultRecord.Legal, firstBadAddr_ge]
  | stackUnderflow =>
    obtain ⟨-, -, rfl⟩ := cause
    simp [FaultRecord.Legal]
  | stackOverflow =>
    obtain ⟨-, rfl⟩ := cause
    simp [FaultRecord.Legal]

theorem Invariant.recordFault {s : State} (h : Invariant s) (awake : s.wait = none) {kind : FaultKind}
    {opcode addr : Option Word} (legal : FaultRecord.Legal s ⟨kind, s.pc, opcode, addr⟩) :
    Invariant (s.recordFault kind opcode addr) where
  params := h.params
  memory := h.memory
  index := h.index
  pc := h.pc
  depth := h.depth
  returns := h.returns
  waiting := fun _ waits => nomatch awake.symm.trans waits
  fault := fun r recorded => by
    obtain rfl := Option.some.inj recorded
    exact legal

/-- `IR` matters to the invariant only while the core waits or is faulted. -/
theorem Invariant.setIr {s : State} (h : Invariant s) (awake : s.wait = none) (running : s.fault = none) (w : Word) :
    Invariant (s.setIr w) where
  params := h.params
  memory := h.memory
  index := h.index
  pc := h.pc
  depth := h.depth
  returns := h.returns
  waiting := fun _ waits => nomatch awake.symm.trans waits
  fault := fun _ recorded => nomatch running.symm.trans recorded

/-! ### A completed instruction -/

section

variable {i : Instr} {s t : State} (h : Invariant s) (completed : CompletedFrom i s t)
include h completed

theorem CompletedFrom.index_le : t.i.toNat ≤ 0xFFF := by
  obtain same | ⟨nnn, -, set⟩ | ⟨x, -, set⟩ | ⟨x, -, set⟩ := completed.index
  · exact same ▸ h.index
  · exact set ▸ addrOf_le nnn
  · exact set ▸ indexSum_le _ _
  · exact set ▸ glyphAddr_le h.params _

/-- `PC` goes on, to an address of `nnn`, to `nnn + V0`, or to a return address. -/
theorem CompletedFrom.pc_le (inMemory : s.pc.toNat + 1 ≤ 0xFFF) : t.pc.toNat ≤ 0x10FE := by
  obtain same | next | skipped | ⟨nnn, jump⟩ | ⟨nnn, b, jump⟩ | return_ := completed.pc
  · exact same ▸ h.pc
  · rw [next, pc_add_two_toNat inMemory]
    omega
  · rw [skipped, pc_add_four_toNat inMemory]
    omega
  · have := addrOf_le nnn
    rw [jump]
    omega
  · rw [jump, addrOf_add_zext16_toNat]
    omega
  · have := h.returns _ return_
    omega

theorem CompletedFrom.depth_le (n : Nat) (limit : t.params.stackLimit = some n) : t.sp ≤ n := by
  rw [completed.params] at limit
  have deep : s.stack.length ≤ n := h.depth n limit
  obtain same | ⟨-, w, popped⟩ | ⟨nnn, -, room, pushed⟩ := completed.stack
  · exact (congrArg List.length same).trans_le deep
  · rw [popped, List.length_append] at deep
    exact (Nat.le_add_right _ _).trans deep
  · have : ¬n ≤ s.stack.length := fun full => by
      rw [(State.stackFull_iff s).2 ⟨n, limit, full⟩] at room
      cases room
    rw [State.sp, pushed, List.length_append, List.length_singleton]
    omega

theorem CompletedFrom.returns_le (inMemory : s.pc.toNat + 1 ≤ 0xFFF) : ∀ w ∈ t.stack, w.toNat ≤ 0x1000 := by
  intro w hw
  obtain same | ⟨-, top, popped⟩ | ⟨nnn, -, -, pushed⟩ := completed.stack
  · exact h.returns w (same ▸ hw)
  · exact h.returns w (popped ▸ List.mem_append_left _ hw)
  · rw [pushed, List.mem_append, List.mem_singleton] at hw
    obtain old | rfl := hw
    · exact h.returns w old
    · rw [pc_add_two_toNat inMemory]
      omega

/-- A completed instruction that was fetched from memory keeps the invariant. -/
theorem Invariant.of_completed (awake : s.wait = none) (running : s.fault = none) (inMemory : s.pc.toNat + 1 ≤ 0xFFF)
    (decoded : decode s.params.sysPolicy s.ir = .ok i) : Invariant t where
  params := completed.params ▸ h.params
  memory := by
    rw [completed.params]
    obtain same | ⟨-, canonical⟩ := completed.mem
    · exact same ▸ h.memory
    · exact canonical h.memory
  index := completed.index_le h
  pc := completed.pc_le h inMemory
  depth := completed.depth_le h
  returns := completed.returns_le h inMemory
  waiting := fun x waits => by
    obtain same | ⟨y, rfl, -, enters, samePc⟩ := completed.wait
    · rw [same, awake] at waits
      cases waits
    · obtain rfl := Option.some.inj (enters.symm.trans waits)
      rw [samePc, completed.params, completed.ir, completed.fault]
      exact ⟨inMemory, decoded, running⟩
  fault := fun _ recorded => nomatch running.symm.trans (completed.fault.symm.trans recorded)

end

/-! ### A step -/

theorem Invariant.of_exec {i : Instr} {s t : State} (h : Invariant s) (awake : s.wait = none) (running : s.fault = none)
    (inMemory : s.pc.toNat + 1 ≤ 0xFFF) (decoded : decode s.params.sysPolicy s.ir = .ok i) (ran : exec i s = .next t) :
    Invariant t := by
  obtain ⟨kind, addr, rfl, cause⟩ | completed := exec_cases ran
  · exact h.recordFault awake cause.legal
  · exact h.of_completed completed awake running inMemory decoded

/-- The end of a wait: `PC` goes on from the `Fx0A`, which lies in memory. -/
theorem Invariant.endWait {s : State} {x : RegIdx} (h : Invariant s) (running : s.fault = none) (waits : s.wait = some x)
    (b : Byte) : Invariant (((s.setV x b).setWait none).setPc (s.pc + 2)) where
  params := h.params
  memory := h.memory
  index := h.index
  pc := by
    obtain ⟨inMemory, -, -⟩ := h.waiting x waits
    rw [State.setPc_pc, pc_add_two_toNat inMemory]
    omega
  depth := h.depth
  returns := h.returns
  waiting := nofun
  fault := fun _ recorded => nomatch running.symm.trans recorded

theorem Invariant.of_step {s t : State} (h : Invariant s) (stepped : step s = .next t) : Invariant t := by
  have cleared : Invariant (s.setDraw false) := h.setDraw false
  obtain ⟨running, ⟨x, k, waits, -, rfl⟩ | ⟨x, -, -, rfl⟩ | ⟨awake, -, rfl⟩ | ⟨op, e, awake, -, -, rfl⟩ |
    ⟨op, i, u, awake, fetched, decoded, ran, rfl⟩⟩ := step_cases stepped
  case inl => exact (cleared.endWait running waits (keyByte k)).setKeyLatch none
  case inr.inl => exact cleared.setKeyLatch none
  case inr.inr.inl => exact cleared.recordFault awake (by simp [FaultRecord.Legal, firstBadAddr_ge])
  case inr.inr.inr.inl =>
    exact (cleared.setIr awake running op).recordFault awake (by simp [FaultRecord.Legal])
  case inr.inr.inr.inr =>
    have after : Invariant u :=
      (cleared.setIr awake running op).of_exec awake running (fetch_some fetched).1 decoded ran
    split
    · exact after
    · exact after.setKeyLatch none

/-- Settles O57: an error's record is legal, and each writer of a bounded field keeps its bound. -/
theorem stepKeepsTheInvariant : Obligations.StepKeepsTheInvariant := fun _ _ h stepped => h.of_step stepped

/-! ### Reset and the host's transactions -/

theorem invariant_resetWith {p : Params} (legal : p.Wf) : Invariant (State.resetWith p) where
  params := legal
  memory := Memory.wf_nil p
  index := Nat.zero_le _
  pc := (by decide : (0x200 : Word).toNat ≤ 0x10FE)
  depth := fun _ _ => Nat.zero_le _
  returns := nofun
  waiting := nofun
  fault := nofun

/-- Settles O56: the reset values are within every bound, and the default font base is legal. -/
theorem invariantHoldsAtReset : Obligations.InvariantHoldsAtReset :=
  ⟨fun _ legal => invariant_resetWith legal, invariant_resetWith (p := Params.default) (by decide)⟩

theorem Invariant.reset {s : State} (h : Invariant s) : Invariant (resetTransaction s) :=
  (invariant_resetWith h.params).of_same rfl (Memory.wf_nil _) rfl rfl rfl rfl rfl rfl

theorem Invariant.load {s : State} (h : Invariant s) (image : List Byte) : Invariant (loadImage image s).1 := by
  unfold loadImage
  split
  case isTrue => exact h
  case isFalse fits =>
    have inMemory : progBase + image.length ≤ memSize := by
      simp only [maxImage, memSize, progBase] at *
      omega
    rw [State.writeBytes_eq_setMem]
    exact h.of_same rfl (State.writeBytes_wf s progBase image h.memory inMemory) rfl rfl rfl rfl rfl rfl

theorem Invariant.stepTransaction {s : State} (h : Invariant s) : Invariant (stepTransaction s).1 := by
  unfold Machine.stepTransaction
  split
  case h_1 t stepped => exact h.of_step stepped
  case h_2 | h_3 => exact h

/-- A host input keeps what its answer keeps: a faulted core stays as it is. -/
theorem Invariant.unlessFaulted {s : State} {answer : State × Reply} (h : Invariant s) (kept : Invariant answer.1) :
    Invariant (unlessFaulted s answer).1 := by
  unfold Machine.unlessFaulted
  split
  · exact h
  · exact kept

theorem Invariant.transact {s : State} (h : Invariant s) (tr : Transaction) : Invariant (transact tr s).1 := by
  cases tr with
  | reset => exact h.reset
  | load image => exact h.unlessFaulted (h.load image)
  | step => exact h.stepTransaction
  | tickTimers => exact h.unlessFaulted ((h.setDt _).setSt _)
  | setKeys mask => exact h.unlessFaulted (h.setKey _)
  | keyDown k => exact h.unlessFaulted (h.setKeyLatch _)
  | clearDrawFlag => exact h.unlessFaulted (h.setDraw _)

/-- Settles O59: the step, an image that fits, and writes of fields that the invariant does not read. -/
theorem transactionsKeepTheInvariant : Obligations.TransactionsKeepTheInvariant := fun tr _ h => h.transact tr

theorem Invariant.runSchedule {s : State} (h : Invariant s) (ts : List Transaction) : Invariant (runSchedule ts s) := by
  induction ts generalizing s with
  | nil => exact h
  | cons tr rest ih => exact ih (h.transact tr)

/-- Settles O58: it holds at reset and every transaction of the schedule keeps it. -/
theorem everyReachableStateMeetsTheInvariant : Obligations.EveryReachableStateMeetsTheInvariant := by
  rintro s ⟨p, legal, ts, rfl⟩
  exact (invariant_resetWith legal).runSchedule ts

end Sys2Proof.Machine
end

section
/-! PROOF. The canonical form of memory (spec/10_state.md R37, R38; log entry 5): the list is determined by what it reads. -/

namespace Sys2Proof.Machine.Memory

/-- The cells of a rising list are what it lists. -/
theorem mem_iff_listed {m : Memory} (rising : m.Pairwise (fun c d => c.1 < d.1)) (a : Nat) (b : Byte) :
    (a, b) ∈ m ↔ listed m a = some b := by
  induction m with
  | nil => simp [listed]
  | cons cell m ih =>
    obtain ⟨k, w⟩ := cell
    obtain ⟨above, rising⟩ := List.pairwise_cons.1 rising
    by_cases same : a = k
    case pos =>
      subst same
      have once : (a, b) ∉ m := fun again => lt_irrefl a (above _ again)
      simp [listed, once, eq_comm]
    case neg => simp [listed, same, ih rising]

/-- A canonical memory lists an address exactly when it reads otherwise than after reset. -/
theorem listed_eq_some_iff {p : Params} {m : Memory} (canonical : wf p m) (a : Nat) (b : Byte) :
    listed m a = some b ↔ read p m a = b ∧ b ≠ initial p a := by
  obtain ⟨rising, cells⟩ := canonical
  constructor
  case mp =>
    intro isListed
    exact ⟨by simp [read, isListed], (cells _ ((mem_iff_listed rising a b).2 isListed)).2⟩
  case mpr =>
    rintro ⟨rfl, changed⟩
    unfold read at *
    cases isListed : listed m a with
    | none => simp [isListed] at changed
    | some w => rfl

/-- Settles O4: two rising lists with the same cells are the same list. -/
theorem canonicalMemoriesThatReadAlikeAreEqual : Obligations.CanonicalMemoriesThatReadAlikeAreEqual := by
  intro p m n canonicalM canonicalN alike
  have irreflexive : Std.Irrefl (fun c d : Host.Cell => c.1 < d.1) := ⟨fun c => lt_irrefl c.1⟩
  have asymmetric : Std.Asymm (fun c d : Host.Cell => c.1 < d.1) := ⟨fun _ _ => lt_asymm⟩
  refine canonicalM.1.eq_of_mem_iff canonicalN.1 fun ⟨a, b⟩ => ?_
  rw [mem_iff_listed canonicalM.1, mem_iff_listed canonicalN.1, listed_eq_some_iff canonicalM,
    listed_eq_some_iff canonicalN, alike a]

end Sys2Proof.Machine.Memory
end

section
/-! PROOF. The cycle (spec/40_cycle.md R100 to R109): how a step of each kind runs, that every step of a running core
answers a next state, what a faulted core does, and the wait check (spec/45_input_timers.md R213). -/

namespace Sys2Proof.Machine

/-! ### Frames -/

theorem frameExcept_setIr (s : State) (w : Word) : FrameExcept [.ir] s (s.setIr w) := by
  intro f hf
  cases f with
  | ir => exact absurd List.mem_cons_self hf
  | v | mem => exact fun _ => rfl
  | _ => rfl

theorem frameExcept_setKeyLatch (s : State) (k : Option KeyCode) : FrameExcept [.keyLatch] s (s.setKeyLatch k) := by
  intro f hf
  cases f with
  | keyLatch => exact absurd List.mem_cons_self hf
  | v | mem => exact fun _ => rfl
  | _ => rfl

theorem frameExcept_setWait (s : State) (w : Option RegIdx) : FrameExcept [.wait] s (s.setWait w) := by
  intro f hf
  cases f with
  | wait => exact absurd List.mem_cons_self hf
  | v | mem => exact fun _ => rfl
  | _ => rfl

theorem FrameExcept.mono {l m : List Field} {s t : State} (h : FrameExcept l s t) (sub : l ⊆ m) : FrameExcept m s t :=
  fun f hf => h f (mt (@sub f) hf)

/-! ### How each kind of step runs -/

theorem fetch_of_inMemory {s : State} (inMemory : s.pc.toNat + 1 ≤ 0xFFF) :
    s.fetch = some (opcodeOfBytes (s.readByte s.pc.toNat) (s.readByte (s.pc.toNat + 1))) :=
  if_neg (Nat.not_lt.2 inMemory)

theorem fetch_of_past {s : State} (past : 0xFFF < s.pc.toNat + 1) : s.fetch = none := if_pos past

theorem step_of_fault {s : State} {r : FaultRecord} (faulted : s.fault = some r) : step s = .fault (.runOver r) := by
  simp [step, cycle, faulted]

theorem endStep_of_running {u : State} (running : u.fault = none) : endStep (.next u) = .next (u.setKeyLatch none) := by
  simp [endStep, running]

theorem endStep_of_raised {u : State} {r : FaultRecord} (raised : u.fault = some r) : endStep (.next u) = .next u := by
  simp [endStep, raised]

section

variable {s : State} (running : s.fault = none) (awake : s.wait = none)
include running awake

theorem step_of_fetch_none (past : s.fetch = none) :
    step s = .next ((s.setDraw false).recordFault .memoryFault none (some (firstBadAddr s.pc))) := by
  have pastToo : (s.setDraw false).fetch = none := past
  simp [step, cycle, runStep, fetchAndExec, endStep, running, awake, pastToo, State.recordFault]

theorem step_of_fetch {op : Word} (fetched : s.fetch = some op) :
    step s = endStep (decodeAndExec op ((s.setDraw false).setIr op)) := by
  have fetchedToo : (s.setDraw false).fetch = some op := fetched
  simp [step, cycle, runStep, fetchAndExec, running, awake, fetchedToo]

theorem step_of_illegal {op : Word} (fetched : s.fetch = some op)
    (illegal : decode s.params.sysPolicy op = .error (.unknownOpcode op)) :
    step s = .next (((s.setDraw false).setIr op).recordFault .unknownOpcode (some op) none) := by
  rw [step_of_fetch running awake fetched]
  simp [decodeAndExec, illegal, raise, endStep, State.recordFault]

theorem step_of_decoded {op : Word} {i : Instr} (fetched : s.fetch = some op)
    (decoded : decode s.params.sysPolicy op = .ok i) :
    step s = endStep (exec i ((s.setDraw false).setIr op)) := by
  rw [step_of_fetch running awake fetched]
  simp [decodeAndExec, decoded]

end

/-! ### Every instruction and every step of a running core answers a next state -/

theorem accessAtI_answers_next (n : Nat) (s t : State) : ∃ u, accessAtI n s (.next t) = .next u := by
  unfold accessAtI
  split <;> exact ⟨_, rfl⟩

theorem exec_answers_next (i : Instr) (s : State) : ∃ t, exec i s = .next t := by
  cases i with
  | sys nnn =>
    simp only [exec, execSys]
    split <;> exact ⟨_, rfl⟩
  | ret =>
    simp only [exec, execRet]
    split <;> exact ⟨_, rfl⟩
  | call nnn =>
    simp only [exec, execCall]
    split <;> exact ⟨_, rfl⟩
  | ldVxK x =>
    simp only [exec, execLdVxK]
    split <;> exact ⟨_, rfl⟩
  | drw | ldBVx | ldMemVx | ldVxMem => exact accessAtI_answers_next _ s _
  | _ => exact ⟨_, rfl⟩

theorem decodeAndExec_answers_next (op : Word) (s : State) : ∃ t, decodeAndExec op s = .next t := by
  unfold decodeAndExec
  split
  · exact ⟨_, rfl⟩
  · exact exec_answers_next _ s

theorem step_answers_next {s : State} (running : s.fault = none) : ∃ t, step s = .next t := by
  cases waits : s.wait with
  | some x =>
    obtain ⟨u, checked⟩ := waitCheck_answers_next x (s.setDraw false)
    exact ⟨_, by rw [step_of_wait running waits, checked]; rfl⟩
  | none =>
    cases fetched : s.fetch with
    | none => exact ⟨_, step_of_fetch_none running waits fetched⟩
    | some op =>
      obtain ⟨u, ran⟩ := decodeAndExec_answers_next op ((s.setDraw false).setIr op)
      exact ⟨_, by rw [step_of_fetch running waits fetched, ran]; rfl⟩

/-- Settles O12: each meaning ends in `complete` or `raise`, and both are next states. -/
theorem onlyAFaultedCoreStops : Obligations.OnlyAFaultedCoreStops :=
  ⟨exec_answers_next, fun _ running => step_answers_next running⟩

/-- Settles O11: the step of a core that fetches, with the end of the step written out. -/
theorem stepRunsTheDecodedInstruction : Obligations.StepRunsTheDecodedInstruction := by
  intro s i running awake inMemory decoded
  obtain ⟨u, ran⟩ := exec_answers_next i
    { s with draw := false, ir := opcodeOfBytes (s.readByte s.pc.toNat) (s.readByte (s.pc.toNat + 1)) }
  rw [step_of_decoded running awake (fetch_of_inMemory inMemory) decoded, ran]
  refine (congrArg endStep ran).trans ?_
  cases ended : u.fault with
  | none => simp [endStep_of_running ended, State.setKeyLatch, ended]
  | some r => simp [endStep_of_raised ended, ended]

/-- Settles O14: a fetch past `0xFFE` records the error and runs nothing. -/
theorem fetchPastMemoryFaults : Obligations.FetchPastMemoryFaults := by
  intro s running awake past
  refine ⟨_, _, step_of_fetch_none running awake (fetch_of_past past), rfl, firstBadAddr_toNat s.pc, rfl, ?frame⟩
  case frame => exact (frameExcept_setDraw s false).trans (frameExcept_setFault _ _)

/-- Settles O13: the step of a faulted core stops at once, and the guard holds back every host input. -/
theorem faultedCoreChangesNothing : Obligations.FaultedCoreChangesNothing := by
  intro s r faulted
  have stops : step s = .fault (.runOver r) := step_of_fault faulted
  have stepped : transact .step s = (s, .status (.fault r)) := by
    simp [transact, stepTransaction, stops, statusOf, faulted]
  have isFaulted : s.fault ≠ none := by simp [faulted]
  refine ⟨stops, stepped, fun tr notReset => ?_⟩
  cases tr with
  | reset => exact absurd rfl notReset
  | step => rw [stepped]
  | load | tickTimers | setKeys | keyDown | clearDrawFlag => exact congrArg Prod.fst (unlessFaulted_of_fault _ isFaulted)

/-! ### DRAW and IR are not read (decision D29) -/

/-- Settles O22: each step begins with its own writes of `DRAW` and, if it fetches, of `IR`. -/
theorem drawAndIrAreNotRead : Obligations.DrawAndIrAreNotRead := by
  constructor
  case left =>
    intro s d running
    rfl
  case right =>
    intro s w running awake inMemory
    have fetched := fetch_of_inMemory inMemory
    have fetchedToo : (s.setIr w).fetch = s.fetch := rfl
    rw [step_of_fetch running awake fetched]
    exact step_of_fetch (s := s.setIr w) running awake (fetchedToo.trans fetched)

/-! ### The wait check -/

theorem keyByte_toNat (k : KeyCode) : (keyByte k).toNat = k.val := by
  rw [keyByte, BitVec.toNat_ofNat]
  omega

theorem waitCheck_of_latched {s : State} {k : KeyCode} (x : RegIdx) (latched : s.keyLatch = some k) :
    waitCheck x s = .next (((s.setV x (keyByte k)).setWait none).setPc (s.pc + 2)) := by
  simp [waitCheck, latched, complete]

theorem step_of_waitCheck {s u : State} {x : RegIdx} (running : s.fault = none) (waits : s.wait = some x)
    (checked : waitCheck x (s.setDraw false) = .next u) (after : u.fault = none) : step s = .next (u.setKeyLatch none) := by
  rw [step_of_wait running waits, checked, endStep_of_running after]

theorem transact_step_of_next {s t : State} (stepped : step s = .next t) :
    transact .step s = (t, .status (statusOf t)) := by
  simp [transact, stepTransaction, stepped]

/-- Settles O20: the two ends of the wait check, each followed by the end of the step. -/
theorem waitingStepMakesTheWaitCheck : Obligations.WaitingStepMakesTheWaitCheck := by
  intro s x running waits
  refine ⟨fun k latched => ?takes, fun unlatched => ?waitsOn⟩
  case takes =>
    have checked := waitCheck_of_latched (s := s.setDraw false) x latched
    have stepped := step_of_waitCheck running waits checked running
    refine ⟨_, ?reply, stepped, ?key, rfl, rfl, rfl, rfl, regsExcept_setV (s.setDraw false) x _, ?frame⟩
    case reply => simp [transact_step_of_next stepped, statusOf, running]
    case key => simp [keyByte_toNat]
    case frame =>
      exact ((((frameExcept_setDraw s false).trans (frameExcept_registers _ _)).trans (frameExcept_setWait _ none)).trans
        (frameExcept_setPc _ _)).trans (frameExcept_setKeyLatch _ none) |>.mono (by decide)
  case waitsOn =>
    have checked := waitCheck_of_unlatched (s := s.setDraw false) x unlatched
    have stepped := step_of_waitCheck running waits checked running
    have noLatch : (s.setDraw false).setKeyLatch none = s.setDraw false := by
      rw [← unlatched]
      rfl
    rw [noLatch] at stepped
    refine ⟨_, ?reply, stepped, rfl, frameExcept_setDraw s false⟩
    case reply => simp [transact_step_of_next stepped, statusOf, running, waits]

end Sys2Proof.Machine
end

section
/-! PROOF. The errors of a step (spec/60_exceptions.md R230 to R235): a step that ends faulted fetched nothing, fetched no
instruction, or ran an instruction that raised an error for its cause; and what each of these leaves of the state. -/

namespace Sys2Proof.Machine

/-! ### What a step that ends faulted did -/

/-- The error `r` of the step from `s`, and the state `t` it leaves: (1) nothing could be fetched; (2) an opcode was
fetched, and only `DRAW`, `IR` and `FAULT` are written: it is no instruction, or an instruction with a cause to raise `r`. -/
theorem step_raises {s t : State} {r : FaultRecord} (stepped : step s = .next t) (raised : t.fault = some r) :
    s.fault = none ∧ s.wait = none ∧
    ((s.fetch = none ∧ r = ⟨.memoryFault, s.pc, none, some (firstBadAddr s.pc)⟩ ∧ t = (s.setDraw false).setFault (some r)) ∨
     ∃ op, s.fetch = some op ∧ r.pc = s.pc ∧ r.opcode = some op ∧ t = ((s.setDraw false).setIr op).setFault (some r) ∧
      ((decode s.params.sysPolicy op = .error (.unknownOpcode op) ∧ r.kind = .unknownOpcode ∧ r.addr = none) ∨
       ∃ i, decode s.params.sysPolicy op = .ok i ∧ RaiseCause i ((s.setDraw false).setIr op) r.addr r.kind)) := by
  obtain ⟨running, ⟨x, k, -, -, rfl⟩ | ⟨x, -, -, rfl⟩ | ⟨awake, past, rfl⟩ | ⟨op, e, awake, fetched, illegal, rfl⟩ |
    ⟨op, i, u, awake, fetched, decoded, ran, rfl⟩⟩ := step_cases stepped
  case inl => cases running.symm.trans raised
  case inr.inl => cases running.symm.trans raised
  case inr.inr.inl =>
    obtain rfl := Option.some.inj raised
    exact ⟨running, awake, .inl ⟨past, rfl, rfl⟩⟩
  case inr.inr.inr.inl =>
    obtain rfl := Option.some.inj raised
    obtain rfl := decode_error illegal
    exact ⟨running, awake, .inr ⟨op, fetched, rfl, rfl, rfl, .inl ⟨illegal, rfl, rfl⟩⟩⟩
  case inr.inr.inr.inr =>
    obtain ⟨kind, addr, rfl, cause⟩ | completed := exec_cases ran
    · obtain rfl := Option.some.inj raised
      exact ⟨running, awake, .inr ⟨op, fetched, rfl, rfl, rfl, .inr ⟨i, decoded, cause⟩⟩⟩
    · have stillRunning : u.fault = none := completed.fault.trans running
      simp [stillRunning] at raised

/-- Settles O16: in both cases the state before the fetch is left, but for `DRAW`, `IR` and `FAULT`. -/
theorem faultingStepKeepsNothing : Obligations.FaultingStepKeepsNothing := by
  intro s t r stepped raised
  obtain ⟨-, -, ⟨past, rfl, rfl⟩ | ⟨op, fetched, samePc, opcode, rfl, -⟩⟩ := step_raises stepped raised
  case inl =>
    refine ⟨?frame, rfl, rfl, past.symm, fun op fetched => (nomatch past.symm.trans fetched), fun _ => rfl⟩
    exact ((frameExcept_setDraw s false).trans (frameExcept_setFault _ _)).mono (by decide)
  case inr =>
    have frame := ((frameExcept_setDraw s false).trans (frameExcept_setIr _ op)).trans (frameExcept_setFault _ (some r))
    exact ⟨frame, rfl, samePc, opcode.trans fetched.symm, fun op' fetched' => Option.some.inj (fetched.symm.trans fetched'),
      fun past => (nomatch past.symm.trans fetched)⟩

/-- A decoded instruction never raises `UnknownOpcode`: the decoder yields `SYS` only where `SYS` advances. -/
theorem not_unknownOpcode_of_decoded {s : State} {op : Word} {i : Instr} {addr : Option Word}
    (decoded : decode s.params.sysPolicy op = .ok i) : ¬RaiseCause i s addr .unknownOpcode := by
  rintro ⟨⟨nnn, rfl⟩, isFault, -⟩
  obtain isNop | notSys := inUse_of_decode decoded
  · cases isFault.symm.trans isNop
  · exact notSys nnn rfl

/-- Settles O17: the causes of `RaiseCause`, for the instruction that was fetched. -/
theorem everyErrorHasItsCause : Obligations.EveryErrorHasItsCause := by
  intro s t r stepped raised
  obtain ⟨running, awake, ⟨past, rfl, -⟩ | ⟨op, fetched, -, -, -, ⟨illegal, kind, -⟩ | ⟨i, decoded, cause⟩⟩⟩ :=
    step_raises stepped raised
  case inl => exact .inl ⟨past, fetch_none past⟩
  case inr.inl => rw [kind]; exact ⟨op, fetched, illegal⟩
  case inr.inr =>
    have runs : Executes s i := ⟨running, awake, op, fetched, decoded⟩
    obtain ⟨kind, pc, opcode, addr⟩ := r
    cases kind with
    | unknownOpcode => exact absurd cause (not_unknownOpcode_of_decoded decoded)
    | memoryFault =>
      obtain ⟨-, ⟨x, y, n, rfl, range⟩ | ⟨x, rfl, range⟩ | ⟨x, rfl | rfl, range⟩⟩ := cause
      · exact .inr (.inl ⟨x, y, n, runs, range⟩)
      · exact .inr (.inr (.inl ⟨x, runs, range⟩))
      · exact .inr (.inr (.inr ⟨x, .inl runs, range⟩))
      · exact .inr (.inr (.inr ⟨x, .inr runs, range⟩))
    | stackUnderflow =>
      obtain ⟨rfl, empty, -⟩ := cause
      exact ⟨runs, empty⟩
    | stackOverflow =>
      obtain ⟨⟨nnn, n, rfl, limit, deep⟩, -⟩ := cause
      exact ⟨nnn, n, runs, limit, deep⟩

/-! ### UnknownOpcode -/

theorem decode_error_iff_not_decodes (policy : SysPolicy) (op : Word) :
    decode policy op = .error (.unknownOpcode op) ↔ ¬∃ i, decode policy op = .ok i := by
  cases decoded : decode policy op with
  | ok i => simp
  | error e => simp [decode_error decoded]

/-- The list of illegal encodings, and the rows in use that match none of them. -/
theorem illegalOpcode_iff_no_row (policy : SysPolicy) (op : Word) :
    IllegalOpcode policy op.toNat ↔ ¬∃ j : Instr, (policy = .nop ∨ ∀ nnn, j ≠ .sys nnn) ∧ j.row.Matches op := by
  rw [← decode_error_iff, decode_error_iff_not_decodes, decodes_iff_matches]
  rfl

/-- Settles O15: the decoder raises it, and no instruction that it yields does. -/
theorem unknownOpcodeIsRaisedByDecode : Obligations.UnknownOpcodeIsRaisedByDecode := by
  intro s op running awake fetched
  obtain ⟨t, stepped⟩ := step_answers_next running
  refine ⟨t, stepped, ⟨?raisedOnly, ?raises⟩, illegalOpcode_iff_no_row _ op, ?record⟩
  case raisedOnly =>
    rintro ⟨r, raised, unknown⟩
    obtain ⟨-, -, ⟨past, -, -⟩ | ⟨op', fetched', -, -, -, ⟨illegal, -, -⟩ | ⟨i, decoded, cause⟩⟩⟩ :=
      step_raises stepped raised
    · cases past.symm.trans fetched
    · obtain rfl := Option.some.inj (fetched.symm.trans fetched')
      exact (decode_error_iff _ op).1 illegal
    · exact absurd (unknown ▸ cause) (not_unknownOpcode_of_decoded decoded)
  case raises =>
    intro illegal
    obtain rfl := Host.Outcome.next.inj
      ((step_of_illegal running awake fetched ((decode_error_iff _ op).2 illegal)).symm.trans stepped)
    exact ⟨_, rfl, rfl⟩
  case record =>
    intro illegal
    obtain rfl := Host.Outcome.next.inj
      ((step_of_illegal running awake fetched ((decode_error_iff _ op).2 illegal)).symm.trans stepped)
    exact ⟨rfl, rfl, rfl, ((frameExcept_setDraw s false).trans (frameExcept_setIr _ op)).trans (frameExcept_setFault _ _)⟩

end Sys2Proof.Machine
end

section
/-! PROOF. The writers of each piece of state (spec/40_cycle.md, the frame rule) and the draw flag after a step
(spec/44_display.md, draw-flag generation). -/

namespace Sys2Proof.Machine

/-- What a step leaves: (1) a wait ended; (2) a wait goes on; (3) nothing was fetched, an error; (4) an opcode was fetched,
an error; (5) the instruction that was fetched completed, and `KEYLATCH` was cleared. -/
theorem step_effect {s t : State} (stepped : step s = .next t) :
    (∃ x k, s.wait = some x ∧ s.keyLatch = some k ∧ s.fault = none ∧
      t = (((((s.setDraw false).setV x (keyByte k)).setWait none).setPc (s.pc + 2)).setKeyLatch none)) ∨
    (∃ x, s.wait = some x ∧ s.keyLatch = none ∧ s.fault = none ∧ t = (s.setDraw false).setKeyLatch none) ∨
    (∃ r, s.wait = none ∧ s.fault = none ∧ s.fetch = none ∧ t = (s.setDraw false).setFault (some r)) ∨
    (∃ op r, s.wait = none ∧ s.fault = none ∧ s.fetch = some op ∧ t = ((s.setDraw false).setIr op).setFault (some r)) ∨
    ∃ op i u, Executes s i ∧ s.fetch = some op ∧ CompletedFrom i ((s.setDraw false).setIr op) u ∧
      u.fault = none ∧ t = u.setKeyLatch none := by
  obtain ⟨running, ⟨x, k, waits, latched, rfl⟩ | ⟨x, waits, unlatched, rfl⟩ | ⟨awake, past, rfl⟩ |
    ⟨op, e, awake, fetched, -, rfl⟩ | ⟨op, i, u, awake, fetched, decoded, ran, rfl⟩⟩ := step_cases stepped
  case inl => exact .inl ⟨x, k, waits, latched, running, rfl⟩
  case inr.inl => exact .inr (.inl ⟨x, waits, unlatched, running, rfl⟩)
  case inr.inr.inl => exact .inr (.inr (.inl ⟨_, awake, running, past, rfl⟩))
  case inr.inr.inr.inl => exact .inr (.inr (.inr (.inl ⟨op, _, awake, running, fetched, rfl⟩)))
  case inr.inr.inr.inr =>
    obtain ⟨kind, addr, rfl, -⟩ | completed := exec_cases ran
    · exact .inr (.inr (.inr (.inl ⟨op, _, awake, running, fetched, rfl⟩)))
    · have stillRunning : u.fault = none := completed.fault.trans running
      exact .inr (.inr (.inr (.inr
        ⟨op, i, u, ⟨running, awake, op, fetched, decoded⟩, fetched, completed, stillRunning, by simp [stillRunning]⟩)))

theorem Executes.unique {s : State} {i j : Instr} (hi : Executes s i) (hj : Executes s j) : i = j := by
  obtain ⟨-, -, op, fetched, decoded⟩ := hi
  obtain ⟨-, -, op', fetched', decoded'⟩ := hj
  obtain rfl := Option.some.inj (fetched.symm.trans fetched')
  exact Except.ok.inj (decoded.symm.trans decoded')

/-- Settles O18: the explicit states of a wait and of an error, and the writers of `CompletedFrom`. -/
theorem onlyItsWritersChangeState : Obligations.OnlyItsWritersChangeState := by
  intro s t stepped
  obtain ⟨x, k, waits, latched, running, rfl⟩ | ⟨x, waits, unlatched, running, rfl⟩ | ⟨r, awake, running, past, rfl⟩ |
    ⟨op, r, awake, running, fetched, rfl⟩ | ⟨op, i, u, runs, fetched, completed, stillRunning, rfl⟩ := step_effect stepped
  case inl => simp [waits, latched, running]
  case inr.inl => simp [waits, unlatched, running]
  case inr.inr.inl => simp [awake, running]
  case inr.inr.inr.inl => simp [awake, running, fetched]
  case inr.inr.inr.inr =>
    obtain ⟨running, awake, -⟩ := id runs
    refine ⟨fun r changed => ?v, fun changed => ?i, fun changed => ⟨stillRunning, ?pc⟩, fun changed => ?stack,
      fun changed => ?dt, fun changed => ?st, fun changed => ?mem, fun changed => ?fb, fun isSet => ?draw, completed.key,
      fun _ => rfl, fun _ => rfl, fun changed => ?wait, fun _ => ⟨awake, fetched.trans (congrArg some completed.ir.symm)⟩,
      fun _ => ⟨running, awake⟩, completed.params, fun changed => ?draws⟩
    case v => exact .inr ⟨i, runs, (completed.regs r).resolve_left changed⟩
    case i =>
      obtain ⟨nnn, rfl, -⟩ | ⟨x, rfl, -⟩ | ⟨x, rfl, -⟩ := completed.index.resolve_left changed
      · exact .inl ⟨nnn, runs⟩
      · exact .inr ⟨x, .inl runs⟩
      · exact .inr ⟨x, .inr runs⟩
    case pc =>
      obtain same | ⟨x, -, -, -, held⟩ := completed.wait
      · exact same.trans awake
      · exact absurd held changed
    case stack =>
      obtain ⟨rfl, -⟩ | ⟨nnn, rfl, -⟩ := completed.stack.resolve_left changed
      · exact .inl runs
      · exact .inr ⟨nnn, runs⟩
    case dt =>
      obtain ⟨x, rfl⟩ := completed.dt.resolve_left changed
      exact ⟨x, runs⟩
    case st =>
      obtain ⟨x, rfl⟩ := completed.st.resolve_left changed
      exact ⟨x, runs⟩
    case mem =>
      obtain ⟨⟨x, rfl | rfl⟩, -⟩ := completed.mem.resolve_left changed
      · exact ⟨x, .inl runs⟩
      · exact ⟨x, .inr runs⟩
    case fb =>
      obtain rfl | ⟨x, y, n, rfl⟩ := completed.fb.resolve_left changed
      · exact .inl runs
      · exact .inr ⟨x, y, n, runs⟩
    case draw =>
      obtain ⟨kept, -⟩ | ⟨-, rfl | ⟨x, y, n, rfl⟩⟩ := completed.draw
      · cases kept.symm.trans isSet
      · exact .inl runs
      · exact .inr ⟨x, y, n, runs⟩
    case wait =>
      obtain ⟨x, rfl, -⟩ := completed.wait.resolve_left changed
      exact .inr ⟨x, runs⟩
    case draws =>
      obtain ⟨x, kk, rfl⟩ := completed.draws.resolve_left changed
      exact ⟨x, kk, runs⟩

/-- Settles O19: a step begins with `DRAW` false, and of the instructions only `CLS` and `DRW` set it. -/
theorem drawFlagAfterAStep : Obligations.DrawFlagAfterAStep := by
  intro s t stepped
  obtain ⟨x, k, waits, -, -, rfl⟩ | ⟨x, waits, -, -, rfl⟩ | ⟨r, -, -, -, rfl⟩ | ⟨op, r, -, -, -, rfl⟩ |
    ⟨op, i, u, runs, -, completed, stillRunning, rfl⟩ := step_effect stepped
  case inl => simp [Executes, waits]
  case inr.inl => simp [Executes, waits]
  case inr.inr.inl => simp
  case inr.inr.inr.inl => simp
  case inr.inr.inr.inr =>
    constructor
    case mp =>
      intro isSet
      obtain ⟨kept, -⟩ | ⟨-, rfl | ⟨x, y, n, rfl⟩⟩ := completed.draw
      · cases kept.symm.trans isSet
      · exact ⟨stillRunning, .inl runs⟩
      · exact ⟨stillRunning, .inr ⟨x, y, n, runs⟩⟩
    case mpr =>
      rintro ⟨-, draws⟩
      obtain ⟨-, notCls, notDrw⟩ | ⟨isSet, -⟩ := completed.draw
      · obtain cls | ⟨x, y, n, drw⟩ := draws
        · exact absurd (runs.unique cls) notCls
        · exact absurd (runs.unique drw) (notDrw x y n)
      · exact isSet

end Sys2Proof.Machine
end

section
/-! PROOF. The key state (spec/10_state.md section 8): every shared operation leaves `KEY` as it is and reads nothing of it, so
only a step that executes `SKP` or `SKNP` depends on it. -/

namespace Sys2Proof.Machine

/-! ### The shape of a `DRW` -/

/-- The state after a `DRW` whose bytes lie in memory (R191). -/
def State.drawn (s : State) (x y : RegIdx) (n : Fin 16) : State :=
  (((s.setFb (plot s.fb (drawnCells s x y n)).1).setV regF (collisionFlag (plot s.fb (drawnCells s x y n)).2)).setDraw
    true).setPc (s.pc + 2)

theorem exec_drw (s : State) (x y : RegIdx) (n : Fin 16) : exec (.drw x y n) s = accessAtI n s (.next (s.drawn x y n)) := rfl

/-! ### The key state -/

/-- The same end, with another key state. -/
def withKey (k : Vector Bool 16) : Result → Result
  | .next t => .next (t.setKey k)
  | .fault r => .fault r
  | .refused r => .refused r

section

variable (s : State) (k : Vector Bool 16)

theorem complete_setKey (o : NextPc) : complete o (s.setKey k) = withKey k (complete o s) := by
  cases o <;> rfl

theorem raise_setKey (kind : FaultKind) (addr : Option Word) :
    raise kind addr (s.setKey k) = withKey k (raise kind addr s) := rfl

theorem skipIf_setKey (c : Bool) : skipIf c (s.setKey k) = withKey k (skipIf c s) := complete_setKey s k _

theorem accessAtI_setKey (n : Nat) (r : Result) : accessAtI n (s.setKey k) (withKey k r) = withKey k (accessAtI n s r) := by
  unfold accessAtI
  rw [State.setKey_i]
  split <;> rfl

/-- An access that advances from a state with the same key state. -/
theorem accessAtI_complete_setKey (n : Nat) {t u : State} (same : u = t.setKey k) :
    accessAtI n (s.setKey k) (complete .advance u) = withKey k (accessAtI n s (complete .advance t)) := by
  rw [same, complete_setKey, accessAtI_setKey]

theorem writeBytes_setKey (a : Nat) (bs : List Byte) : (s.setKey k).writeBytes a bs = (s.writeBytes a bs).setKey k := by
  induction bs generalizing s a with
  | nil => rfl
  | cons b bs ih => exact ih (s.writeByte a b) (a + 1)

theorem setResultAndFlag_setKey (x : RegIdx) (res flag : Byte) :
    (s.setKey k).setResultAndFlag x res flag = (s.setResultAndFlag x res flag).setKey k := by
  unfold State.setResultAndFlag
  rw [State.setKey_params]
  split <;> rfl

theorem foldl_setV_setKey (f : RegIdx → Byte) (rs : List RegIdx) :
    rs.foldl (fun t q => t.setV q (f q)) (s.setKey k) = (rs.foldl (fun t q => t.setV q (f q)) s).setKey k := by
  induction rs generalizing s with
  | nil => rfl
  | cons q rs ih => exact ih (s.setV q (f q))

/-- Every instruction but `SKP` and `SKNP` does the same, whatever `KEY` holds. -/
theorem exec_setKey {i : Instr} (notKeySkip : ∀ x, i ≠ .skp x ∧ i ≠ .sknp x) :
    exec i (s.setKey k) = withKey k (exec i s) := by
  cases i with
  | skp x => exact absurd rfl (notKeySkip x).1
  | sknp x => exact absurd rfl (notKeySkip x).2
  | sys nnn =>
    simp only [exec, execSys, State.setKey_params]
    split <;> rfl
  | ret =>
    obtain empty | ⟨rest, w, top⟩ := s.stack.eq_nil_or_concat'
    · rw [exec_ret_of_empty empty, exec_ret_of_empty (s := s.setKey k) empty, raise_setKey]
    · rw [exec_ret_of_append top, exec_ret_of_append (s := s.setKey k) top]
      rfl
  | call nnn =>
    have sameFull : (s.setKey k).stackFull = s.stackFull := rfl
    simp only [exec, execCall, sameFull]
    split <;> rfl
  | ldVxK x =>
    simp only [exec, execLdVxK, State.setKey_keyLatch]
    split <;> rfl
  | seKk | sneKk | seVy | sneVy => exact skipIf_setKey s k _
  | addVy | subVy | shrVy | subnVy | shlVy => exact congrArg (complete .advance) (setResultAndFlag_setKey s k _ _ _)
  | ldBVx | ldMemVx => exact accessAtI_complete_setKey s k _ (writeBytes_setKey s k _ _)
  | ldVxMem => exact accessAtI_complete_setKey s k _ (foldl_setV_setKey s k _ _)
  | drw x y n => exact accessAtI_setKey s k n (.next (s.drawn x y n))
  | _ => rfl

theorem waitCheck_setKey (x : RegIdx) : waitCheck x (s.setKey k) = withKey k (waitCheck x s) := by
  unfold waitCheck
  rw [State.setKey_keyLatch]
  split <;> rfl

theorem endStep_withKey (r : Result) : endStep (withKey k r) = withKey k (endStep r) := by
  cases r with
  | next t =>
    cases ended : t.fault with
    | none => rw [endStep_of_running ended, withKey, endStep_of_running (u := t.setKey k) ended]; rfl
    | some r => rw [endStep_of_raised ended, withKey, endStep_of_raised (u := t.setKey k) ended]
  | fault r => rfl
  | refused r => rfl

/-- A step that executes neither `SKP` nor `SKNP` does the same, whatever `KEY` holds. -/
theorem step_setKey (notKeySkip : ∀ x, ¬Executes s (.skp x) ∧ ¬Executes s (.sknp x)) :
    step (s.setKey k) = withKey k (step s) := by
  cases faulted : s.fault with
  | some r => rw [step_of_fault faulted, step_of_fault (s := s.setKey k) faulted]; rfl
  | none =>
    cases waits : s.wait with
    | some x =>
      rw [step_of_wait faulted waits, step_of_wait (s := s.setKey k) faulted waits, ← endStep_withKey]
      exact congrArg endStep (waitCheck_setKey (s.setDraw false) k x)
    | none =>
      cases fetched : s.fetch with
      | none =>
        rw [step_of_fetch_none faulted waits fetched, step_of_fetch_none (s := s.setKey k) faulted waits fetched]
        rfl
      | some op =>
        cases decoded : decode s.params.sysPolicy op with
        | error e =>
          obtain rfl := decode_error decoded
          rw [step_of_illegal faulted waits fetched decoded, step_of_illegal (s := s.setKey k) faulted waits fetched decoded]
          rfl
        | ok i =>
          have runs : Executes s i := ⟨faulted, waits, op, fetched, decoded⟩
          have notSkip : ∀ x, i ≠ .skp x ∧ i ≠ .sknp x := fun x =>
            ⟨fun same => (notKeySkip x).1 (same ▸ runs), fun same => (notKeySkip x).2 (same ▸ runs)⟩
          rw [step_of_decoded faulted waits fetched decoded, step_of_decoded (s := s.setKey k) faulted waits fetched decoded,
            ← endStep_withKey]
          exact congrArg endStep (exec_setKey ((s.setDraw false).setIr op) k notSkip)

end

/-- Settles O23: `KEY` goes through every shared operation unread, and `SKP` and `SKNP` alone ask for it. -/
theorem onlyTheKeySkipsReadTheKeys : Obligations.OnlyTheKeySkipsReadTheKeys := by
  intro s t k notKeySkip stepped
  exact (step_setKey s k notKeySkip).trans (congrArg (withKey k) stepped)

end Sys2Proof.Machine
end

section
/-! PROOF. A `CALL` and the `RET` at its target (spec/41_control_flow.md, the call-return law). -/

namespace Sys2Proof.Machine

theorem exec_call_of_room {s : State} (nnn : Addr12) (room : ∀ n, s.params.stackLimit = some n → s.sp < n) :
    exec (.call nnn) s = .next ((s.setStack (s.stack ++ [s.pc + 2])).setPc (addrOf nnn)) := by
  have notFull : ¬s.stackFull = true := fun full => by
    obtain ⟨n, limit, deep⟩ := (State.stackFull_iff s).1 full
    exact absurd (room n limit) (Nat.not_lt.2 deep)
  simp only [exec, execCall, notFull]
  rfl

/-- A step whose instruction completes ends in the state it leaves, with `KEYLATCH` cleared. -/
theorem step_of_completed {s u : State} {op : Word} {i : Instr} (running : s.fault = none) (awake : s.wait = none)
    (fetched : s.fetch = some op) (decoded : decode s.params.sysPolicy op = .ok i)
    (ran : exec i ((s.setDraw false).setIr op) = .next u) (after : u.fault = none) :
    step s = .next (u.setKeyLatch none) := by
  rw [step_of_decoded running awake fetched decoded, ran, endStep_of_running after]

theorem decode_00EE (policy : SysPolicy) : decode policy 0x00EE = .ok .ret :=
  decode_encode_of_ne_sys policy (i := .ret) nofun

theorem step_of_call {s : State} {b : Addr12} (runs : Executes s (.call b))
    (room : ∀ n, s.params.stackLimit = some n → s.sp < n) :
    ∃ op, step s =
      .next (((((s.setDraw false).setIr op).setStack (s.stack ++ [s.pc + 2])).setPc (addrOf b)).setKeyLatch none) := by
  obtain ⟨running, awake, op, fetched, decoded⟩ := runs
  exact ⟨op, step_of_completed running awake fetched decoded
    (exec_call_of_room (s := (s.setDraw false).setIr op) b room) running⟩

theorem step_of_ret {s : State} {rest : List Word} {w : Word} (running : s.fault = none) (awake : s.wait = none)
    (fetched : s.fetch = some 0x00EE) (top : s.stack = rest ++ [w]) :
    step s = .next (((((s.setDraw false).setIr 0x00EE).setStack rest).setPc w).setKeyLatch none) :=
  step_of_completed running awake fetched (decode_00EE _)
    (exec_ret_of_append (s := (s.setDraw false).setIr 0x00EE) top) running

/-- Settles O30: the `RET` pops what the `CALL` pushed, and the rest of the stack stays below it. -/
theorem callThenReturnResumesAfterTheCall : Obligations.CallThenReturnResumesAfterTheCall := by
  intro s b runs room high low inMemory
  obtain ⟨op, called⟩ := step_of_call runs room
  generalize ht : ((((s.setDraw false).setIr op).setStack (s.stack ++ [s.pc + 2])).setPc (addrOf b)).setKeyLatch none = t
    at called
  have running : t.fault = none := by subst ht; exact runs.1
  have awake : t.wait = none := by subst ht; exact runs.2.1
  have top : t.stack = s.stack ++ [s.pc + 2] := by subst ht; rfl
  have target : t.pc.toNat = b.toNat := by subst ht; exact addrOf_toNat b
  have fetched : t.fetch = some 0x00EE := by
    have bytes : ∀ a, t.readByte a = s.readByte a := by subst ht; exact fun _ => rfl
    rw [fetch_of_inMemory (target ▸ inMemory), bytes, bytes, target, high, low]
    rfl
  have returned := step_of_ret running awake fetched top
  have restored : ((((t.setDraw false).setIr 0x00EE).setStack s.stack).setPc (s.pc + 2)).setKeyLatch none =
      (((s.setDraw false).setIr 0x00EE).setPc (s.pc + 2)).setKeyLatch none := by
    subst ht
    simp only [State.setDraw, State.setIr, State.setStack, State.setPc, State.setKeyLatch]
  rw [restored] at returned
  refine ⟨t, _, called, target, returned, rfl, rfl, ?frame⟩
  exact ((((frameExcept_setDraw s false).trans (frameExcept_setIr _ _)).trans (frameExcept_setPc _ _)).trans
    (frameExcept_setKeyLatch _ none)).mono (by decide)

end Sys2Proof.Machine
end

section
/-! PROOF. Memory (spec/20_memory.md, spec/43_index_memory.md, spec/70_reset_and_hazards.md R261): the big-endian fetch, the
index register, and the instructions and the load that write or read a range of bytes. -/

namespace Sys2Proof.Machine

/-! ### What a write of bytes leaves unchanged -/

theorem frameExcept_setMem (s : State) (m : Memory) : FrameExcept [.mem] s (s.setMem m) := by
  intro f hf
  cases f with
  | mem => exact absurd List.mem_cons_self hf
  | v => exact fun _ => rfl
  | _ => rfl

theorem frameExcept_writeBytes (s : State) (a : Nat) (bs : List Byte) : FrameExcept [.mem] s (s.writeBytes a bs) := by
  rw [State.writeBytes_eq_setMem]
  exact frameExcept_setMem s _

theorem writeBytes_pc (s : State) (a : Nat) (bs : List Byte) : (s.writeBytes a bs).pc = s.pc := by
  rw [State.writeBytes_eq_setMem, State.setMem_pc]

theorem memExcept_writeBytes (s : State) (a : Nat) (bs : List Byte) : MemExcept a bs.length s (s.writeBytes a bs) :=
  fun b outside => State.readByte_writeBytes_outside s a bs b outside

/-! ### The fetch -/

theorem fieldX_val (op : Word) : (fieldX op).val = op.toNat / 256 % 16 := by
  have bits : (fieldX op).val = (op.extractLsb' 8 4).toNat := rfl
  rw [bits, BitVec.extractLsb'_toNat, Nat.shiftRight_eq_div_pow]

theorem fieldY_val (op : Word) : (fieldY op).val = op.toNat / 16 % 16 := by
  have bits : (fieldY op).val = (op.extractLsb' 4 4).toNat := rfl
  rw [bits, BitVec.extractLsb'_toNat, Nat.shiftRight_eq_div_pow]

/-- The two bytes at `PC` of a state whose memory holds `hi` and `lo` there are the opcode's high and low byte. -/
theorem exists_fetch_of_bytes {s : State} {hi lo : Byte} (inMemory : s.pc.toNat + 1 ≤ 0xFFF)
    (high : s.readByte s.pc.toNat = hi) (low : s.readByte (s.pc.toNat + 1) = lo) :
    ∃ op, s.fetch = some op ∧ op.toNat = hi.toNat * 256 + lo.toNat :=
  ⟨_, fetch_of_inMemory inMemory, by rw [high, low, opcodeOfBytes_toNat]⟩

/-- Settles O5: the opcode is the number of its two bytes, and its nibbles are theirs. -/
theorem fetchIsBigEndian : Obligations.FetchIsBigEndian := by
  intro s inMemory
  refine ⟨?nibbles, fun b => ?high, fun b => ?low⟩
  case nibbles =>
    obtain ⟨op, fetched, value⟩ := exists_fetch_of_bytes inMemory rfl rfl
    refine ⟨op, fetched, value, ?_⟩
    rw [nA_toNat, fieldX_val, fieldY_val, nD_toNat, value]
    omega
  case high =>
    have high : (s.writeByte s.pc.toNat b).readByte s.pc.toNat = b := by simp
    have low : (s.writeByte s.pc.toNat b).readByte (s.pc.toNat + 1) = s.readByte (s.pc.toNat + 1) := by simp
    exact exists_fetch_of_bytes (s := s.writeByte s.pc.toNat b) inMemory high low
  case low =>
    have high : (s.writeByte (s.pc.toNat + 1) b).readByte s.pc.toNat = s.readByte s.pc.toNat := by simp
    have low : (s.writeByte (s.pc.toNat + 1) b).readByte (s.pc.toNat + 1) = b := by simp
    exact exists_fetch_of_bytes (s := s.writeByte (s.pc.toNat + 1) b) inMemory high low

/-! ### The index register -/

theorem exec_addIVx (s : State) (x : RegIdx) :
    exec (.addIVx x) s = .next ((s.setI (indexSum s.i (s.getV x))).setPc (s.pc + 2)) := rfl

theorem exec_ldFVx (s : State) (x : RegIdx) :
    exec (.ldFVx x) s = .next ((s.setI (glyphAddr s.params (s.getV x))).setPc (s.pc + 2)) := rfl

/-- Settles O39: one write to `I` each, of a 12-bit sum and of a glyph's address. -/
theorem indexArithmetic : Obligations.IndexArithmetic := by
  intro s x
  refine ⟨?addI, fun legal => ?ldF⟩
  case addI => exact ⟨_, exec_addIVx s x, indexSum_toNat _ _, rfl, (frameExcept_setI s _).trans (frameExcept_setPc _ _)⟩
  case ldF => exact ⟨_, exec_ldFVx s x, glyphAddr_toNat _ _ legal, rfl, (frameExcept_setI s _).trans (frameExcept_setPc _ _)⟩

/-! ### The digits and the dump -/

/-- The end of an instruction that writes the bytes `bs` at `I`, a range that lies in memory. -/
theorem accessAtI_writeBytes {s : State} {n : Nat} {bs : List Byte} (inMemory : s.i.toNat + n ≤ 0x1000) :
    accessAtI n s (complete .advance (s.writeBytes s.i.toNat bs)) =
      .next ((s.writeBytes s.i.toNat bs).setPc (s.pc + 2)) := by
  rw [accessAtI_inRange (.inr inMemory), complete, State.applyNextPc_advance, writeBytes_pc]

theorem frameExcept_writeBytes_advance (s : State) (a : Nat) (bs : List Byte) (w : Word) :
    FrameExcept [.mem, .pc] s ((s.writeBytes a bs).setPc w) :=
  (frameExcept_writeBytes s a bs).trans (frameExcept_setPc _ w)

theorem exec_ldBVx_inMemory {s : State} (x : RegIdx) (inMemory : s.i.toNat + 2 ≤ 0xFFF) :
    exec (.ldBVx x) s = .next ((s.writeBytes s.i.toNat (bcdDigits (s.getV x))).setPc (s.pc + 2)) :=
  accessAtI_writeBytes (n := 3) (by omega)

theorem exec_ldMemVx_inMemory {s : State} (x : RegIdx) (inMemory : s.i.toNat + x ≤ 0xFFF) :
    exec (.ldMemVx x) s = .next ((s.writeBytes s.i.toNat ((regsUpTo x).map s.getV)).setPc (s.pc + 2)) :=
  accessAtI_writeBytes (n := x + 1) (by omega)

/-- Settles O40: the three bytes written are the digits of the value, and no other byte is. -/
theorem bcdStoresThreeDigits : Obligations.BcdStoresThreeDigits := by
  intro s x inMemory
  have digit : ∀ (k : Nat) (h : k < 3), (s.writeBytes s.i.toNat (bcdDigits (s.getV x))).readByte (s.i.toNat + k) =
      (bcdDigits (s.getV x))[k] := State.readByte_writeBytes_inside s s.i.toNat (bcdDigits (s.getV x))
  refine ⟨_, exec_ldBVx_inMemory x inMemory, ?hundreds, ?tens, ?ones, memExcept_writeBytes s _ (bcdDigits (s.getV x)), rfl,
    frameExcept_writeBytes_advance s _ _ _⟩
  case hundreds => exact (congrArg BitVec.toNat (digit 0 (by decide))).trans (BitVec.toNat_udiv ..)
  case tens =>
    refine (congrArg BitVec.toNat (digit 1 (by decide))).trans ?_
    simp [bcdDigits]
  case ones => exact (congrArg BitVec.toNat (digit 2 (by decide))).trans (BitVec.toNat_umod ..)

theorem regsUpTo_length (x : RegIdx) : (regsUpTo x).length = x + 1 := by
  simpa using congrArg List.length (regsUpTo_vals x)

/-- The register of the number `r` stands at place `r` of `V0..Vx`. -/
theorem regsUpTo_getElem {x r : RegIdx} (h : r.val < (regsUpTo x).length) : (regsUpTo x)[r.val] = r := by
  have place : ((regsUpTo x).map Fin.val)[r.val]'(by simpa using h) = r.val := by simp [regsUpTo_vals]
  exact Fin.ext (by simpa using place)

/-- A byte of a dump is its register. -/
theorem readByte_dump (s : State) {x r : RegIdx} (h : r ≤ x) :
    (s.writeBytes s.i.toNat ((regsUpTo x).map s.getV)).readByte (s.i.toNat + r) = s.getV r := by
  have inList : r.val < (regsUpTo x).length := by
    rw [regsUpTo_length]
    exact Nat.lt_succ_of_le h
  rw [State.readByte_writeBytes_inside s _ _ r.val (by simpa using inList), List.getElem_map, regsUpTo_getElem inList]

/-- Settles O41: the bytes written are `V0..Vx`, in the order of their numbers. -/
theorem registerDumpStoresTheRegisters : Obligations.RegisterDumpStoresTheRegisters := by
  intro s x inMemory
  refine ⟨_, exec_ldMemVx_inMemory x inMemory, fun r h => readByte_dump s h, ?others, rfl,
    frameExcept_writeBytes_advance s _ _ _⟩
  case others =>
    have outside := memExcept_writeBytes s s.i.toNat ((regsUpTo x).map s.getV)
    rwa [List.length_map, regsUpTo_length] at outside

/-! ### The load of registers -/

theorem exec_ldVxMem_inMemory {s : State} (x : RegIdx) (inMemory : s.i.toNat + x ≤ 0xFFF) :
    exec (.ldVxMem x) s = .next ((loadRegs s (regsUpTo x)).setPc (s.pc + 2)) := by
  have pcKept : (loadRegs s (regsUpTo x)).pc = s.pc := by
    obtain ⟨v, loaded⟩ := loadRegs_eq s (regsUpTo x)
    rw [loaded]
  refine (accessAtI_inRange (n := x + 1) (.inr (by omega))).trans ?_
  rw [complete, State.applyNextPc_advance, pcKept]

theorem frameExcept_loadRegs (s : State) (rs : List RegIdx) : FrameExcept [.v] s (loadRegs s rs) := by
  obtain ⟨v, loaded⟩ := loadRegs_eq s rs
  exact loaded ▸ frameExcept_registers s v

/-- `V0..Vx` come from memory, and the registers above `x` stay. -/
theorem loadRegs_upTo_getV (s : State) (x : RegIdx) :
    (∀ r ≤ x, (loadRegs s (regsUpTo x)).getV r = s.readByte (s.i.toNat + r)) ∧
    ∀ r, x < r → (loadRegs s (regsUpTo x)).getV r = s.getV r := by
  refine ⟨fun r low => ?_, fun r high => ?_⟩
  · rw [loadRegs_getV, if_pos ((mem_regsUpTo x r).2 low)]
  · rw [loadRegs_getV, if_neg (mt (mem_regsUpTo x r).1 (not_le.2 high))]

/-- Settles O42: one write per register of `V0..Vx`, each of its byte. -/
theorem registerLoadReadsTheBytes : Obligations.RegisterLoadReadsTheBytes := by
  intro s x inMemory
  obtain ⟨loaded, kept⟩ := loadRegs_upTo_getV s x
  exact ⟨_, exec_ldVxMem_inMemory x inMemory, loaded, kept, rfl, (frameExcept_loadRegs s _).trans (frameExcept_setPc _ _)⟩

/-- Settles O44: the load reads the bytes that the dump wrote. -/
theorem dumpThenLoadRestoresTheRegisters : Obligations.DumpThenLoadRestoresTheRegisters := by
  intro s t u x inMemory dumped sameI sameBytes
  obtain rfl := Host.Outcome.next.inj ((exec_ldMemVx_inMemory x inMemory).symm.trans dumped)
  have indexKept : u.i = s.i := sameI.trans (frameExcept_writeBytes s _ _ .i (by decide))
  obtain ⟨loaded, kept⟩ := loadRegs_upTo_getV u x
  refine ⟨_, exec_ldVxMem_inMemory x (indexKept ▸ inMemory), fun r low => ?restored, kept⟩
  case restored =>
    calc (loadRegs u (regsUpTo x)).getV r
      _ = u.readByte (s.i.toNat + r) := by rw [loaded r low, indexKept]
      _ = (s.writeBytes s.i.toNat ((regsUpTo x).map s.getV)).readByte (s.i.toNat + r) := sameBytes r low
      _ = s.getV r := readByte_dump s low

/-! ### The range check -/

/-- An access at an `I` in memory that passes `0xFFF` reports `0x1000`. -/
theorem accessAtI_past {n : Nat} {s : State} {result : Result} (index : s.i.toNat ≤ 0xFFF) (past : 0x1000 < s.i.toNat + n) :
    accessAtI n s result = raise .memoryFault (some 0x1000) s := by
  rw [accessAtI_outOfRange (by omega), firstBadAddr, if_pos index]

/-- Settles O43: each of the four makes the check before its writes. -/
theorem accessPastMemoryFaults : Obligations.AccessPastMemoryFaults := by
  intro s x y n index
  refine ⟨fun past => ?digits, fun past => ⟨?dump, ?load⟩, fun nonempty past => ?draw⟩
  all_goals exact raises_of_exec (accessAtI_past index (by omega))

/-! ### The host's load -/

/-- Settles O54: past the guard, an image that fits is written at `0x200`, and a longer one is not. -/
theorem loadCopiesTheImageOrRefuses : Obligations.LoadCopiesTheImageOrRefuses := by
  intro s image running
  have answered : transact (.load image) s = loadImage image s := unlessFaulted_of_fault_none _ running
  rw [answered]
  refine ⟨fun fits => ?copied, fun tooLong => ?refused⟩
  case copied =>
    exact ⟨_, if_neg (not_lt.2 fits), fun j h => State.readByte_writeBytes_inside s progBase image j h,
      memExcept_writeBytes s progBase image, frameExcept_writeBytes s progBase image⟩
  case refused => exact if_pos tooLong

end Sys2Proof.Machine
end

section
/-! PROOF. `SYS`, `JP V0` and `CALL` (spec/41_control_flow.md). -/

namespace Sys2Proof.Machine

/-- Settles O24: the two policies are the two ends of `execSys`. -/
theorem sysAdvancesOrIsUnknown : Obligations.SysAdvancesOrIsUnknown := by
  intro s nnn
  refine ⟨fun isNop => ?advances, fun isFault => ?unknown⟩
  case advances =>
    have ran : exec (.sys nnn) s = .next (s.setPc (s.pc + 2)) := by simp [exec, execSys, isNop, complete]
    exact ⟨_, ran, rfl, frameExcept_setPc s _⟩
  case unknown => exact raises_of_exec (by simp [exec, execSys, isFault])

theorem exec_jpV0 (s : State) (nnn : Addr12) :
    exec (.jpV0 nnn) s = .next (s.setPc (addrOf nnn + zext16 (s.getV 0))) := rfl

/-- Settles O26: the 16-bit sum of an address and a byte does not wrap. -/
theorem jumpV0AddsUnmasked : Obligations.JumpV0AddsUnmasked :=
  fun s nnn => ⟨_, exec_jpV0 s nnn, addrOf_add_zext16_toNat nnn _, frameExcept_setPc s _⟩

/-- Settles O27: a stack with room is not full, so the call pushes and goes. -/
theorem callPushesTheAddressAfterIt : Obligations.CallPushesTheAddressAfterIt := fun s nnn room =>
  ⟨_, exec_call_of_room nnn room, rfl, addrOf_toNat nnn, (frameExcept_setStack s _).trans (frameExcept_setPc _ _)⟩

/-- Settles O28: a stack at its limit or beyond it is full. -/
theorem callOnAFullStackOverflows : Obligations.CallOnAFullStackOverflows := fun s _ n limit deep =>
  raises_of_exec (if_pos ((State.stackFull_iff s).2 ⟨n, limit, deep⟩))

end Sys2Proof.Machine
end

section
/-! PROOF. The logic ops and `RND`, the shift left, and the flag ops with `VF` as their destination (spec/42_alu.md). -/

namespace Sys2Proof.Machine

/-! ### Logic and random -/

/-- An instruction that writes the byte `b` to `V[x]` and advances. -/
theorem exists_next_of_setV {i : Instr} {s : State} {x : RegIdx} {b : Byte}
    (h : exec i s = complete .advance (s.setV x b)) :
    ∃ t, exec i s = .next t ∧ t.getV x = b ∧ t.pc = s.pc + 2 ∧ RegsExcept [x] s t ∧ FrameExcept [.v, .pc] s t :=
  ⟨_, h, State.setV_getV_same s x b, rfl, regsExcept_setV s x b,
    (frameExcept_registers s _).trans (frameExcept_setPc _ _)⟩

/-- Settles O33: each is one write, of a byte whose bits are known. -/
theorem logicOpsWorkBitByBit : Obligations.LogicOpsWorkBitByBit := by
  intro s x y
  refine ⟨?or, ?and, ?xor⟩
  case or =>
    obtain ⟨t, ran, value, rest⟩ := exists_next_of_setV (i := .orVy x y) (s := s) rfl
    exact ⟨t, ran, fun k _ => value ▸ BitVec.getLsbD_or, rest⟩
  case and =>
    obtain ⟨t, ran, value, rest⟩ := exists_next_of_setV (i := .andVy x y) (s := s) rfl
    exact ⟨t, ran, fun k _ => value ▸ BitVec.getLsbD_and, rest⟩
  case xor =>
    obtain ⟨t, ran, value, rest⟩ := exists_next_of_setV (i := .xorVy x y) (s := s) rfl
    exact ⟨t, ran, fun k _ => value ▸ BitVec.getLsbD_xor, rest⟩

theorem frameExcept_countDraw (s : State) : FrameExcept [.draws] s s.countDraw := by
  intro f hf
  cases f with
  | draws => exact absurd List.mem_cons_self hf
  | v | mem => exact fun _ => rfl
  | _ => rfl

theorem exec_rnd (s : State) (x : RegIdx) (kk : Byte) :
    exec (.rnd x kk) s = .next ((s.countDraw.setV x (Config.randomByte s.draws &&& kk)).setPc (s.pc + 2)) := rfl

/-- Settles O37: one draw is counted, and the byte drawn is written under the mask. -/
theorem randomByteUnderItsMask : Obligations.RandomByteUnderItsMask := by
  intro s x kk
  refine ⟨_, exec_rnd s x kk, fun k _ => ?bits, rfl, rfl, regsExcept_setV s.countDraw x _, ?frame⟩
  case bits =>
    have value := State.setV_getV_same s.countDraw x (Config.randomByte s.draws &&& kk)
    rw [State.setPc_getV, value, BitVec.getLsbD_and]
  case frame =>
    exact (((frameExcept_countDraw s).trans (frameExcept_registers _ _)).trans (frameExcept_setPc _ _)).mono (by decide)

/-! ### The shift left, and the flag ops on VF -/

/-- Doubling a byte drops its top bit (R149). -/
theorem natCast_toNat_shiftLeft_one (b : Byte) : ((b <<< 1).toNat : Int) = (b.toNat : Int) * 2 % 256 := by
  rw [BitVec.toNat_shiftLeft, Nat.shiftLeft_eq]
  omega

/-- The bit that `SHL` shifts out is set from 128 on; the mode says where the flag holds it. -/
theorem shlFlag_toNat (mode : ShlVfMode) (b : Byte) :
    (shlFlag mode b).toNat = if b.toNat ≥ 128 then (if mode = .raw then 0x80 else 1) else 0 := by
  cases mode with
  | raw =>
    have top : b.getLsbD 7 = decide (128 ≤ b.toNat) := BitVec.msb_eq_decide b
    have mask : (0x80 : Byte) = BitVec.twoPow 8 7 := rfl
    rw [shlFlag, mask, BitVec.and_twoPow, top]
    by_cases high : 128 ≤ b.toNat <;> simp [high]
  | normalised =>
    have one : (1 : Byte).toNat = 1 := rfl
    rw [shlFlag, BitVec.toNat_and, one, Nat.and_one_is_mod, BitVec.toNat_ushiftRight, Nat.shiftRight_eq_div_pow]
    simp only [reduceCtorEq, if_false]
    split <;> omega

/-- Settles O35: the two writes of R138, with the flag of the mode. -/
theorem shiftLeftFlagFollowsItsMode : Obligations.ShiftLeftFlagFollowsItsMode := by
  intro s x y hx
  refine ⟨fun mode => ?raw, fun mode => ?normalised⟩
  case raw =>
    exact setsResultAndFlag_of_exec rfl hx (natCast_toNat_shiftLeft_one _) (by simp [shlFlag_toNat, mode])
  case normalised =>
    exact setsResultAndFlag_of_exec rfl hx (natCast_toNat_shiftLeft_one _) (by simp [shlFlag_toNat, mode])

/-- An instruction that makes the two writes of R138 to `VF` leaves the later one there. -/
theorem setsOnlyVF_of_exec {i : Instr} {res flag : Byte} {n : Int} {f : Nat} {s : State}
    (h : exec i s = complete .advance (s.setResultAndFlag regF res flag)) (value : (res.toNat : Int) = n)
    (flagValue : flag.toNat = f) : SetsOnlyVF i n f s := by
  refine ⟨_, h, fun flagLast => ?flag, fun resultLast => ?result, ?pc, ?regs, ?frame⟩
  case flag => simpa [State.setResultAndFlag_getV, flagLast] using flagValue
  case result => simpa [State.setResultAndFlag_getV, resultLast] using value
  case pc => exact congrArg (· + 2) (frameExcept_setResultAndFlag s regF res flag .pc (by decide))
  case regs => exact fun r hr => regsExcept_setResultAndFlag s regF res flag r (by simpa using hr)
  case frame => exact (frameExcept_setResultAndFlag s regF res flag).trans (frameExcept_setPc _ _)

/-- Settles O36: the same results and flags as for another destination, written to one register. -/
theorem flagOpsOnVFKeepTheLaterWrite : Obligations.FlagOpsOnVFKeepTheLaterWrite := by
  intro s y
  refine ⟨?addVy, ?subVy, ?shrVy, ?subnVy, ?shlVy⟩
  case addVy => exact setsOnlyVF_of_exec rfl (natCast_toNat_add _ _) (carryFlag_toNat _ _)
  case subVy => exact setsOnlyVF_of_exec rfl (natCast_toNat_sub _ _) (noBorrowFlag_toNat _ _)
  case shrVy => exact setsOnlyVF_of_exec rfl (natCast_toNat_shiftRight_one _) (shrFlag_toNat _)
  case subnVy => exact setsOnlyVF_of_exec rfl (natCast_toNat_sub _ _) (noBorrowFlag_toNat _ _)
  case shlVy => exact setsOnlyVF_of_exec rfl (natCast_toNat_shiftLeft_one _) (shlFlag_toNat _ _)

end Sys2Proof.Machine
end

section
/-! PROOF. The key skips and the key wait (spec/45_input_timers.md R210, R211, R213). -/

namespace Sys2Proof.Machine

/-- A key is pressed if its code is a key's and `KEY` has it (R210). -/
theorem keyPressed_iff (s : State) (b : Byte) :
    s.keyPressed b = true ↔ ∃ k : KeyCode, b.toNat = k.val ∧ s.key[k] = true := by
  unfold State.keyPressed
  split
  case isTrue isKey =>
    refine ⟨fun pressed => ⟨⟨b.toNat, isKey⟩, rfl, pressed⟩, ?_⟩
    rintro ⟨⟨code, _⟩, rfl, pressed⟩
    exact pressed
  case isFalse noKey =>
    refine ⟨nofun, ?_⟩
    rintro ⟨k, code, -⟩
    exact absurd (code ▸ k.isLt) noKey

/-- Settles O50: both are `skipIf` of the pressed key. -/
theorem keySkips : Obligations.KeySkips := by
  intro s x
  have pressed := keyPressed_iff s (s.getV x)
  exact ⟨skipsIf_of_exec rfl pressed, skipsIf_of_exec rfl (by rw [Bool.not_eq_true', ← pressed, Bool.not_eq_true])⟩

theorem exec_ldVxK_of_latched {s : State} {k : KeyCode} (x : RegIdx) (latched : s.keyLatch = some k) :
    exec (.ldVxK x) s = complete .advance (s.setV x (keyByte k)) := by
  simp [exec, execLdVxK, latched]

/-- Settles O52: the two ends of the first part of R213. -/
theorem keyWaitTakesTheKeyOrWaits : Obligations.KeyWaitTakesTheKeyOrWaits := by
  intro s x
  refine ⟨fun k latched => ?takes, fun unlatched => ?enters⟩
  case takes => exact setsRegister_of_exec (exec_ldVxK_of_latched x latched) (keyByte_toNat k)
  case enters => exact ⟨_, exec_ldVxK_of_unlatched x unlatched, rfl, frameExcept_setWait s _⟩

end Sys2Proof.Machine
end

section
/-! PROOF. The three inputs of the host (spec/10_state.md R41, decision D18). -/

namespace Sys2Proof.Machine

theorem frameExcept_setKey (s : State) (k : Vector Bool 16) : FrameExcept [.key] s (s.setKey k) := by
  intro f hf
  cases f with
  | key => exact absurd List.mem_cons_self hf
  | v | mem => exact fun _ => rfl
  | _ => rfl

/-- Settles O55: past the guard each is one write. -/
theorem hostInputsSetTheirOwnState : Obligations.HostInputsSetTheirOwnState := by
  intro s mask key running
  have keys : transact (.setKeys mask) s = (s.setKey (keysOfMask mask), .done) := unlessFaulted_of_fault_none _ running
  have down : transact (.keyDown key) s = (s.setKeyLatch (some key), .done) := unlessFaulted_of_fault_none _ running
  have clear : transact .clearDrawFlag s = (s.setDraw false, .done) := unlessFaulted_of_fault_none _ running
  rw [keys, down, clear]
  exact ⟨⟨fun k => by simp [keysOfMask], frameExcept_setKey s _⟩, ⟨rfl, frameExcept_setKeyLatch s _⟩,
    ⟨rfl, frameExcept_setDraw s false⟩⟩

end Sys2Proof.Machine
end

section
/-! PROOF. The reset values (spec/10_state.md R47, spec/70_reset_and_hazards.md R260), the font after reset, and words of every row
of the opcode map (spec/30_encoding.md R74). -/

namespace Sys2Proof.Machine

/-- After reset byte `j` of glyph `d` stands at `FONT_BASE + 5 * d + j` (R37). -/
theorem initial_glyph (p : Params) (d : Fin 16) (j : Fin 5) :
    Memory.initial p (p.fontBase.toNat + 5 * d + j) = p.fontData[d][j] := by
  have inFont : p.fontBase.toNat ≤ p.fontBase.toNat + 5 * d + j ∧
      p.fontBase.toNat + 5 * d + j < p.fontBase.toNat + 80 := by omega
  have glyph : (p.fontBase.toNat + 5 * d + j - p.fontBase.toNat) / 5 = d := by omega
  have byte : (p.fontBase.toNat + 5 * d + j - p.fontBase.toNat) % 5 = j := by omega
  rw [Memory.initial, dif_pos inFont]
  simp only [glyph, byte]
  rfl

theorem initial_outside_font (p : Params) (a : Nat) (outside : a < p.fontBase.toNat ∨ p.fontBase.toNat + 80 ≤ a) :
    Memory.initial p a = 0 := dif_neg (by omega)

/-- Settles O1: the fields of `resetWith`, and its memory, which lists no cell. -/
theorem resetGivesTheTable : Obligations.ResetGivesTheTable := by
  refine ⟨?table, rfl, by decide, rfl, rfl, rfl, rfl, rfl⟩
  rintro p legal s rfl
  refine ⟨State.resetWith_getV p, rfl, rfl, rfl, rfl, rfl, fun c _ => Framebuffer.cell_clear c, initial_glyph p,
    fun a _ outside => initial_outside_font p a outside, rfl, fun k => ?keys, rfl, rfl, rfl, rfl, rfl⟩
  case keys => simp [State.resetWith]

/-- Settles O2: the bytes of the default font, read at the default base. -/
theorem fontStandsInMemoryAfterReset : Obligations.FontStandsInMemoryAfterReset := by
  unfold Obligations.FontStandsInMemoryAfterReset
  decide

/-- Settles O3: the transaction is this state, with no guard before it. -/
theorem resetTransactionFromAnyState : Obligations.ResetTransactionFromAnyState := fun _ => ⟨rfl, rfl⟩

/-- Settles O10: the decoder computes on each of the words. -/
theorem sampleWordsDecode : Obligations.SampleWordsDecode := by
  unfold Obligations.SampleWordsDecode
  decide

end Sys2Proof.Machine
end

section
/-! PROOF. DRW (spec/44_display.md R191 to R196): which cells it plots, that they are all different, what one draw does to
the framebuffer and to `VF`, and what two equal draws do. -/

namespace Sys2Proof.Machine

/-! ### The plotted cells -/

theorem mem_litColumns (b : Byte) (col : Nat) : col ∈ litColumns b ↔ col < 8 ∧ b.getLsbD (7 - col) = true := by
  simp [litColumns]

theorem zipIdx_readBytes (s : State) (a n : Nat) :
    (s.readBytes a n).zipIdx = (List.range n).map fun row => (s.readByte (a + row), row) := by
  apply List.ext_getElem
  · simp
  · simp

/-- The cells of a sprite, row by row. -/
theorem drawnCells_eq (s : State) (x y : RegIdx) (n : Fin 16) :
    drawnCells s x y n = (List.range n).flatMap fun row =>
      (litColumns (s.readByte (s.i.toNat + row))).map (pixelCell (spriteBase s x y) row) := by
  rw [drawnCells, spriteCells, zipIdx_readBytes, List.flatMap_map]

/-- A pixel's cell determines its row and its column: the 15 rows of 64 cells are fewer than the 2048 of the framebuffer. -/
theorem pixelCell_inj {base row col row' col' : Nat} (hrow : row < 16) (hcol : col < 8) (hrow' : row' < 16)
    (hcol' : col' < 8) (same : pixelCell base row col = pixelCell base row' col') : row = row' ∧ col = col' := by
  simp only [pixelCell, fbCells] at same
  omega

theorem drawnCells_nodup (s : State) (x y : RegIdx) (n : Fin 16) : (drawnCells s x y n).Nodup := by
  rw [drawnCells_eq, List.nodup_flatMap]
  constructor
  case left =>
    intro row hrow
    have inSprite : row < 16 := (List.mem_range.1 hrow).trans n.isLt
    refine List.Nodup.map_on (fun col hcol col' hcol' same => ?_) (List.nodup_range.filter _)
    exact (pixelCell_inj inSprite ((mem_litColumns _ col).1 hcol).1 inSprite ((mem_litColumns _ col').1 hcol').1 same).2
  case right =>
    refine List.Pairwise.imp_of_mem ?_ (List.nodup_range (n := n))
    intro row row' hrow hrow' different
    rw [Function.onFun, List.disjoint_left]
    intro c hc hc'
    obtain ⟨col, hcol, rfl⟩ := List.mem_map.1 hc
    obtain ⟨col', hcol', same⟩ := List.mem_map.1 hc'
    exact different (pixelCell_inj ((List.mem_range.1 hrow).trans n.isLt) ((mem_litColumns _ col).1 hcol).1
      ((List.mem_range.1 hrow').trans n.isLt) ((mem_litColumns _ col').1 hcol').1 same.symm).1

/-- The cells of the list are the plotted ones of the statements. -/
theorem mem_drawnCells (s : State) (x y : RegIdx) (n : Fin 16) (c : Nat) : c ∈ drawnCells s x y n ↔ Plotted s x y n c := by
  simp only [drawnCells_eq, List.mem_flatMap, List.mem_range, List.mem_map, mem_litColumns]
  constructor
  case mp =>
    rintro ⟨row, hrow, col, ⟨hcol, lit⟩, rfl⟩
    exact ⟨row, col, hrow, hcol, lit, rfl⟩
  case mpr =>
    rintro ⟨row, col, hrow, hcol, lit, rfl⟩
    exact ⟨row, hrow, col, ⟨hcol, lit⟩, rfl⟩

theorem Plotted.lt {s : State} {x y : RegIdx} {n c : Nat} (h : Plotted s x y n c) : c < fbCells := by
  obtain ⟨row, col, -, -, -, rfl⟩ := h
  exact Nat.mod_lt _ (by decide)

theorem lt_of_mem_drawnCells {s : State} {x y : RegIdx} {n : Fin 16} {c : Nat} (h : c ∈ drawnCells s x y n) : c < fbCells :=
  ((mem_drawnCells s x y n c).1 h).lt

/-- Settles O46: different pixels of a sprite lie at different offsets below 2048 from its start. -/
theorem spriteCellsAreAllDifferent : Obligations.SpriteCellsAreAllDifferent := fun s x y n =>
  ⟨drawnCells_nodup s x y n, fun _ h => lt_of_mem_drawnCells h⟩

/-! ### One draw -/

/-- Different cells each flip once. -/
theorem plot_cell_of_nodup {f : Framebuffer} {cs : List Nat} (different : cs.Nodup) (inside : ∀ c ∈ cs, c < fbCells)
    (d : Nat) : (plot f cs).1.cell d = (f.cell d ^^ decide (d ∈ cs)) := by
  rw [plot_cell f cs d inside]
  by_cases h : d ∈ cs
  · simp [h, List.count_eq_one_of_mem different h]
  · simp [h, List.count_eq_zero_of_not_mem h]

/-- Different cells collide exactly if one of them was 1 before the draw (R193). -/
theorem plot_collides_iff {f : Framebuffer} {cs : List Nat} (different : cs.Nodup) (inside : ∀ c ∈ cs, c < fbCells) :
    (plot f cs).2 = true ↔ ∃ c ∈ cs, f.cell c = true := by
  induction cs generalizing f with
  | nil => simp
  | cons c cs ih =>
    obtain ⟨notAgain, different⟩ := List.nodup_cons.1 different
    have kept : ∀ d ∈ cs, (f.flip c).cell d = f.cell d := fun d hd => by
      have other : d ≠ c := fun same => notAgain (same ▸ hd)
      simp [Framebuffer.cell_flip f c d (inside c List.mem_cons_self), other]
    rw [plot_cons, Bool.or_eq_true, ih different fun d hd => inside d (List.mem_cons_of_mem c hd), List.exists_mem_cons_iff]
    exact or_congr Iff.rfl (exists_congr fun d => and_congr_right fun hd => by rw [kept d hd])

theorem exec_drw_inMemory {s : State} (x y : RegIdx) {n : Fin 16} (inMemory : n = 0 ∨ s.i.toNat + n - 1 ≤ 0xFFF) :
    exec (.drw x y n) s = .next (s.drawn x y n) := by
  rw [exec_drw]
  refine accessAtI_inRange ?_
  rw [Fin.ext_iff] at inMemory
  have zero : (0 : Fin 16).val = 0 := rfl
  omega

section

variable (s : State) (x y : RegIdx) (n : Fin 16)

theorem drawn_cell (c : Nat) : (s.drawn x y n).fb.cell c = (s.fb.cell c ^^ decide (c ∈ drawnCells s x y n)) :=
  plot_cell_of_nodup (drawnCells_nodup s x y n) (fun _ h => lt_of_mem_drawnCells h) c

theorem drawn_cell_of_plotted {c : Nat} (h : Plotted s x y n c) : (s.drawn x y n).fb.cell c = !s.fb.cell c := by
  simp [drawn_cell, (mem_drawnCells s x y n c).2 h]

theorem drawn_cell_of_not_plotted {c : Nat} (h : ¬Plotted s x y n c) : (s.drawn x y n).fb.cell c = s.fb.cell c := by
  simp [drawn_cell, mt (mem_drawnCells s x y n c).1 h]

theorem drawn_getV_regF : (s.drawn x y n).getV regF = collisionFlag (plot s.fb (drawnCells s x y n)).2 :=
  State.setV_getV_same _ _ _

theorem drawn_collides_iff :
    (plot s.fb (drawnCells s x y n)).2 = true ↔ ∃ c < 2048, Plotted s x y n c ∧ s.fb.cell c = true := by
  rw [plot_collides_iff (drawnCells_nodup s x y n) fun _ h => lt_of_mem_drawnCells h]
  refine exists_congr fun c => ?_
  rw [mem_drawnCells]
  exact ⟨fun ⟨plotted, isSet⟩ => ⟨plotted.lt, plotted, isSet⟩, fun ⟨_, plotted, isSet⟩ => ⟨plotted, isSet⟩⟩

theorem drawn_flag_eq_one (h : ∃ c < 2048, Plotted s x y n c ∧ s.fb.cell c = true) : (s.drawn x y n).getV 0xF = 1 := by
  rw [drawn_getV_regF, (drawn_collides_iff s x y n).2 h]
  rfl

theorem drawn_flag_eq_zero (h : ¬∃ c < 2048, Plotted s x y n c ∧ s.fb.cell c = true) : (s.drawn x y n).getV 0xF = 0 := by
  rw [drawn_getV_regF, Bool.eq_false_iff.2 (mt (drawn_collides_iff s x y n).1 h)]
  rfl

theorem frameExcept_drawn : FrameExcept [.fb, .v, .draw, .pc] s (s.drawn x y n) :=
  (((frameExcept_setFb s _).trans (frameExcept_registers _ _)).trans (frameExcept_setDraw _ true)).trans
    (frameExcept_setPc _ _)

theorem regsExcept_drawn : RegsExcept [regF] s (s.drawn x y n) := regsExcept_setV (s.setFb _) regF _

end

/-- Settles O47: the plotted cells are different, so each flips once and the flag speaks of the screen before. -/
theorem drawFlipsThePlottedCells : Obligations.DrawFlipsThePlottedCells := fun s x y n inMemory =>
  ⟨s.drawn x y n, exec_drw_inMemory x y inMemory,
    fun _ _ => ⟨drawn_cell_of_plotted s x y n, drawn_cell_of_not_plotted s x y n⟩,
    drawn_flag_eq_one s x y n, drawn_flag_eq_zero s x y n, rfl, rfl, regsExcept_drawn s x y n,
    (frameExcept_drawn s x y n).mono (by decide)⟩

/-! ### Two equal draws -/

section

variable {s : State} {x y : RegIdx} (hx : x ≠ 0xF) (hy : y ≠ 0xF) (n : Fin 16)
include hx hy

/-- A draw keeps what the next one reads: `I`, memory and the registers other than `VF`. -/
theorem plotted_drawn_iff (c : Nat) : Plotted (s.drawn x y n) x y n c ↔ Plotted s x y n c := by
  have regs := regsExcept_drawn s x y n
  have sameX : (s.drawn x y n).getV x = s.getV x := regs x (by simpa using hx)
  have sameY : (s.drawn x y n).getV y = s.getV y := regs y (by simpa using hy)
  have sameI : (s.drawn x y n).i = s.i := rfl
  have sameBytes : ∀ a, (s.drawn x y n).readByte a = s.readByte a := fun _ => rfl
  simp only [Plotted, sameX, sameY, sameI, sameBytes]

theorem drawn_drawn_fb : ((s.drawn x y n).drawn x y n).fb = s.fb := by
  refine Framebuffer.ext_cells fun c _ => ?_
  by_cases plotted : Plotted s x y n c
  case pos =>
    rw [drawn_cell_of_plotted _ x y n ((plotted_drawn_iff hx hy n c).2 plotted), drawn_cell_of_plotted s x y n plotted,
      Bool.not_not]
  case neg =>
    rw [drawn_cell_of_not_plotted _ x y n (mt (plotted_drawn_iff hx hy n c).1 plotted),
      drawn_cell_of_not_plotted s x y n plotted]

/-- The second draw collides where the first found a plotted cell clear. -/
theorem drawn_drawn_collides_iff :
    (∃ c < 2048, Plotted (s.drawn x y n) x y n c ∧ (s.drawn x y n).fb.cell c = true) ↔
      ∃ c < 2048, Plotted s x y n c ∧ s.fb.cell c = false := by
  refine exists_congr fun c => and_congr_right fun _ => ?_
  rw [plotted_drawn_iff hx hy n c]
  refine and_congr_right fun plotted => ?_
  rw [drawn_cell_of_plotted s x y n plotted, Bool.not_eq_true']

theorem drawn_drawn_flag_eq_zero (allSet : ∀ c < 2048, Plotted s x y n c → s.fb.cell c = true) :
    ((s.drawn x y n).drawn x y n).getV 0xF = 0 := by
  refine drawn_flag_eq_zero _ x y n ?_
  rw [drawn_drawn_collides_iff hx hy n]
  rintro ⟨c, inside, plotted, clear⟩
  cases clear.symm.trans (allSet c inside plotted)

end

/-- Settles O48: the second draw plots the same cells, each of them inverted by the first. -/
theorem doubleDrawRestoresTheScreen : Obligations.DoubleDrawRestoresTheScreen := by
  intro s x y n hx hy inMemory
  refine ⟨s.drawn x y n, (s.drawn x y n).drawn x y n, exec_drw_inMemory x y inMemory,
    exec_drw_inMemory (s := s.drawn x y n) x y inMemory, drawn_drawn_fb hx hy n, fun clear => ?collides,
    drawn_drawn_flag_eq_zero hx hy n⟩
  case collides => exact drawn_flag_eq_one _ x y n ((drawn_drawn_collides_iff hx hy n).2 clear)

/-- A screen with every cell set, and `I` at the font. -/
def allSetScreen : State := { State.reset with i := 0x50, fb := Vector.replicate 32 (BitVec.allOnes 64) }

theorem allSetScreen_cell {c : Nat} (inside : c < 2048) : allSetScreen.fb.cell c = true := by
  have row : c / 64 < 32 := by omega
  rw [Framebuffer.cell, dif_pos row, allSetScreen, Vector.getElem_replicate, BitVec.getLsbD_allOnes]
  exact decide_eq_true (Nat.mod_lt c (by decide))

/-- Refutes O49: on a screen that is all set, the row `0xF0` of glyph 0 clears its four cells, and the second draw finds
none of them set. -/
theorem not_doubleDrawCollidesOnEveryScreen : ¬Obligations.DoubleDrawCollidesOnEveryScreen := by
  intro collides
  have inMemory : (1 : Fin 16) = 0 ∨ allSetScreen.i.toNat + (1 : Fin 16) - 1 ≤ 0xFFF := .inr (by decide)
  have one : ((allSetScreen.drawn 1 2 1).drawn 1 2 1).getV 0xF = 1 :=
    collides allSetScreen (allSetScreen.drawn 1 2 1) ((allSetScreen.drawn 1 2 1).drawn 1 2 1) 1 2 1 (by decide) (by decide)
      (exec_drw_inMemory 1 2 inMemory) (exec_drw_inMemory (s := allSetScreen.drawn 1 2 1) 1 2 inMemory) rfl rfl
      ⟨0, by decide, by decide⟩
  have zero : ((allSetScreen.drawn 1 2 1).drawn 1 2 1).getV 0xF = 0 :=
    drawn_drawn_flag_eq_zero (by decide) (by decide) 1 fun c inside _ => allSetScreen_cell inside
  cases one.symm.trans zero

end Sys2Proof.Machine
end
